-- ==== Sys2Proof/Word.lean ====
section
/-! DEFINITION. The bit vectors of the block (R5), the two port formats (R39, R40) and the word a port carries.

Bit 0 is the least significant bit; the signed reading of a vector is `BitVec.toInt`, two's complement (R6). -/

namespace Sys2Proof

/-- A line state, bit 1 = channel A and bit 0 = channel B (R14, R41). -/
abbrev LineState := BitVec 2

/-- `position`, `wdata` and `rdata`: 16 bits (R5, R38). -/
abbrev Count := BitVec 16

/-- `delta`: 8 bits (R5). -/
abbrev Delta := BitVec 8

/-- The operation code on the host port: 3 bits (R38). -/
abbrev Cmd := BitVec 3

/-- `hreq[18:0]`, the host port's two fields written as one number (R40). -/
abbrev HReq := BitVec 19

/-- The two formats, one per request port: `T` is the sampler port's (R39), `H` the host port's (R40). -/
inductive Format where
  | T
  | H
deriving DecidableEq, Repr

/-- Format T is always 1 bit and format H always 19 bits (R50). -/
def Format.width : Format → Nat
  | .T => 1
  | .H => 19

/-- A word offered to one of the two request ports: its format and its bits as one number. -/
structure PortWord where
  format : Format
  bits : Nat
deriving DecidableEq, Repr

end Sys2Proof
end

