-- ==== Sys2Proof/Config.lean ====
section
/-! DEFINITION. What one build of the block fixes (R8, R10), its ports (R38), and the free inputs.

`F_CLK` and `T_SAMPLE` (R10) are left out: the spec lets a model ignore them and no rule reads either (log entry 9). -/

namespace Sys2Proof

/-- The build-time parameter `DELTA_MODE` and its two values (R8). -/
inductive DeltaMode where
  | saturate
  | wrap
deriving DecidableEq, Repr, Inhabited

/-- The value of every input port during one cycle (R38); `clk` is the step itself (R37). A level is `true` when high.
The fields have the trace notation's values for what is omitted (R53). -/
structure Inputs where
  rst : Bool := false
  tick : Bool := false
  a : Bool := false
  b : Bool := false
  btnN : Bool := true
  cmd : Cmd := 0
  wdata : Count := 0
deriving DecidableEq, Repr, Inhabited

/-- The value of every output port during one cycle (R38). -/
structure Outputs where
  rvalid : Bool
  rdata : Count
  err : Bool
deriving DecidableEq, Repr, Inhabited

/-- What the outside world presents to one clock edge. -/
inductive Stimulus where
  /-- The inputs hold these values for the whole cycle, as R37 takes them to. -/
  | settled (inputs : Inputs)
  /-- An input the cycle uses moves inside the set-up and hold window, or `a` and `b` are not a pair of one instant. R109
  gives such a cycle no meaning, and U4 of `93_implementation_defined.md` says to refuse it. -/
  | unsettled
deriving DecidableEq, Repr

/-- FREE VALUE (log entry 1, safe). The inputs of a cycle that nobody has written down: the n-th such cycle of a run has
`freeInputs n`. "What is free is the inputs" (`00_scope.md` section 5). It has no body, so no proof can see its value. -/
opaque Config.freeInputs : Nat → Inputs

end Sys2Proof
end

