-- ==== Sys2Proof/Syntax.lean ====
section
/-! DEFINITION. The operation set QDEC-1: one constructor for each row of spec/opcode_table.json (R2, R45, R47), and a cycle as the
trace notation writes it (R53). -/

namespace Sys2Proof

/-- The seven operations and the two reserved codes (R45, R47). The line levels that SAMPLE, INIT and BUTTON read are the
cycle's inputs and no part of the format word (R39, R40), so they are no operands here; an ignored `wdata` (R48) is none either. -/
inductive Instr where
  | sample
  | nop
  | init
  | getDelta
  | getPosition
  | setPosition (v : Count)
  | button
  | rsvd6
  | rsvd7
deriving DecidableEq, Repr

/-- The format that carries an operation (R45): SAMPLE is the sampler port's, everything else the host port's. -/
def Instr.format : Instr → Format
  | .sample => .T
  | .nop => .H
  | .init => .H
  | .getDelta => .H
  | .getPosition => .H
  | .setPosition _ => .H
  | .button => .H
  | .rsvd6 => .H
  | .rsvd7 => .H

/-- One cycle of a trace, as R53 writes it: `[RST] [SAMPLE] [<host op>] a= b= [btn_n=] [-> <response>]`.
A level that may be omitted is an `Option`; the field defaults are what an absent item means. -/
structure TraceCycle where
  rst : Bool := false
  sample : Bool := false
  host : Instr := .nop
  a : Option Bool := none
  b : Option Bool := none
  btnN : Option Bool := none
  response : Outputs := ⟨false, 0, false⟩
deriving DecidableEq, Repr

end Sys2Proof
end

