-- ==== Sys2Proof/WellFormed.lean ====
section
/-! DEFINITION. What makes a port word and a cycle of the trace notation well formed (R39, R40, R53).

An `Instr` needs no check: every 16-bit operand of SET_POSITION is legal (R43) and no other operation has an operand. -/

namespace Sys2Proof

/-- A port carries no more bits than its format has (R39, R40). -/
def PortWord.wf (w : PortWord) : Bool := decide (w.bits < 2 ^ w.format.width)

/-- The host field of a trace cycle names a format-H operation; SAMPLE is written in its own place (R53). -/
def TraceCycle.hostIsHostOp (c : TraceCycle) : Bool := decide (c.host.format = .H)

/-- `a=` and `b=` "may be omitted in a cycle that ignores them" (R53), which is one without reset, SAMPLE and INIT (R48). -/
def TraceCycle.linesGiven (c : TraceCycle) : Bool :=
  !(c.rst || c.sample || decide (c.host = .init)) || (c.a.isSome && c.b.isSome)

/-- "`btn_n=` may be omitted unless the host op is `BUTTON`" (R53). -/
def TraceCycle.buttonGiven (c : TraceCycle) : Bool :=
  !decide (c.host = .button) || c.btnN.isSome

/-- A cycle the trace notation allows (R53). -/
def TraceCycle.wf (c : TraceCycle) : Bool := c.hostIsHostOp && c.linesGiven && c.buttonGiven

end Sys2Proof
end

