-- ==== Sys2Proof/Decode.lean ====
section
/-! DEFINITION. Decoding of the two ports' words (R39, R40, R45, R47, R51), the encoder, and the opcode table's numbering.

The two formats share no bits and are decoded independently in every cycle (R45). -/

namespace Sys2Proof

/-- Why a port word is no operation. -/
inductive DecodeError where
  /-- `tick = 0` is the absence of SAMPLE, and has no row in the table (R51). -/
  | noSample
  /-- The number has bits the format does not have (R39, R40). -/
  | tooWide
deriving DecidableEq, Repr

/-- The sampler port: `tick = 1` is SAMPLE, `tick = 0` is no operation (R39, R51). -/
def decodeT (tick : Bool) : Option Instr := if tick then some .sample else none

/-- `cmd = hreq[18:16]` (R40). -/
def cmdField (w : HReq) : Cmd := w.extractLsb' 16 3

/-- `wdata = hreq[15:0]` (R40). -/
def wdataField (w : HReq) : Count := w.extractLsb' 0 16

/-- The host port: every `cmd` value is one of the six defined codes or one of the two reserved ones (R45, R47, R49). -/
def decodeH (w : HReq) : Instr :=
  if cmdField w = 0b000 then .nop
  else if cmdField w = 0b001 then .init
  else if cmdField w = 0b010 then .getDelta
  else if cmdField w = 0b011 then .getPosition
  else if cmdField w = 0b100 then .setPosition (wdataField w)
  else if cmdField w = 0b101 then .button
  else if cmdField w = 0b110 then .rsvd6
  else .rsvd7

/-- Decode any number offered to either port. -/
def decode (w : PortWord) : Except DecodeError Instr :=
  if w.wf then
    match w.format with
    | .T =>
      match decodeT (w.bits.testBit 0) with
      | some i => .ok i
      | none => .error .noSample
    | .H => .ok (decodeH (BitVec.ofNat 19 w.bits))
  else .error .tooWide

/-- `hreq = {cmd, wdata}` (R40). -/
def hreqOf (cmd : Cmd) (wdata : Count) : HReq := cmd ++ wdata

/-- The operation code of a format-H operation (R45, R47); SAMPLE has none, and beside it the host port idles at NOP. -/
def Instr.cmd : Instr → Cmd
  | .sample => 0b000
  | .nop => 0b000
  | .init => 0b001
  | .getDelta => 0b010
  | .getPosition => 0b011
  | .setPosition _ => 0b100
  | .button => 0b101
  | .rsvd6 => 0b110
  | .rsvd7 => 0b111

/-- The `wdata` an operation is written with: SET_POSITION's operand (R43), and zeros where it is ignored (R53). -/
def Instr.wdata : Instr → Count
  | .sample => 0
  | .nop => 0
  | .init => 0
  | .getDelta => 0
  | .getPosition => 0
  | .setPosition v => v
  | .button => 0
  | .rsvd6 => 0
  | .rsvd7 => 0

/-- The word of an operation on its own port (R45). -/
def encode (i : Instr) : PortWord :=
  match i.format with
  | .T => ⟨.T, 1⟩
  | .H => ⟨.H, (hreqOf i.cmd i.wdata).toNat⟩

/-- The host word that a cycle's `cmd` and `wdata` make (R40). -/
def Inputs.hreq (inp : Inputs) : HReq := hreqOf inp.cmd inp.wdata

/-- The table's rows in whole bytes: format T's one bit takes 8, format H's nineteen take 24 (log entry 7). -/
def formatOfTableWidth (nbits : Nat) : Format := if nbits ≤ 8 then .T else .H

/-- The instruction the decoder reads from a table word. -/
def decodeTableWord (nbits w : Nat) : Option Instr :=
  match decode ⟨formatOfTableWidth nbits, w⟩ with
  | .ok i => some i
  | .error _ => none

/-- A cycle that carries a table word on its own port, with the other port idle (`tick = 0`, or NOP) and the lines at the
levels they have in `lines`. -/
def inputsOfTableWord (lines : Inputs) (nbits w : Nat) : Inputs :=
  match formatOfTableWidth nbits with
  | .T => { a := lines.a, b := lines.b, btnN := lines.btnN, tick := w.testBit 0 }
  | .H => { a := lines.a, b := lines.b, btnN := lines.btnN,
            cmd := cmdField (BitVec.ofNat 19 w), wdata := wdataField (BitVec.ofNat 19 w) }

end Sys2Proof
end

