-- ==== Sys2Proof/Machine/State.lean ====
section
/-! DEFINITION. The state: the three registers of R13, the build parameter, and what the model keeps of the world around the block
(the ports of the latest cycle, the recorded CmdError, the cycles to come). -/

namespace Sys2Proof.Machine

/-- The block's only error. -/
inductive Fault where
  /-- CmdError (R82): raised by RSVD6 and RSVD7 through `raiseCmdError`. The hardware goes on (R84), so no step ends in it; the
  model records it in `State.fault` and never clears it, as R95 asks. Safe (log entry 4). -/
  | cmdError
deriving DecidableEq, Repr

/-- Why a step has no meaning. -/
inductive Refusal where
  /-- Raised by an arm of `exec` whose instruction has no meaning yet; no arm is left in that case. Safe. -/
  | notModelled (mnemonic : String)
  /-- Raised by `step` for a cycle whose inputs are not stable, which R109 gives no meaning (U4: refuse). No operation
  raises it. Safe (log entry 3). -/
  | unsettledInputs
deriving DecidableEq, Repr

/-- The machine. The block's own state is the first three fields, 26 bits in all (R13, R23); no later field feeds back into
them except through the inputs of a cycle and the build parameter. -/
structure State where
  /-- `last_state`: the line state sampled at the previous sampling instant (R14). -/
  lastState : LineState
  /-- `position`: signed running count that wraps (R16). -/
  position : Count
  /-- `delta`: signed count since last consumption (R17). -/
  delta : Delta
  /-- `DELTA_MODE` (R8): fixed when the block is built; no step writes it (log entry 2). -/
  deltaMode : DeltaMode
  /-- The input ports during the latest cycle (R38). -/
  ports : Inputs
  /-- The output ports during the latest cycle (R38, R44). -/
  out : Outputs
  /-- The model's record of a CmdError (R95), not a flag of the block (R22). -/
  fault : Option Fault
  /-- The cycles to come, earliest first: a trace (R53). -/
  pending : List Stimulus
  /-- How many cycles have taken their inputs from `Config.freeInputs`. -/
  draws : Nat
deriving DecidableEq, Repr

/-- What a step or a meaning answers. -/
abbrev Result := Host.Outcome State Fault Refusal

/-- The state right after a reset cycle in which the lines stood at `a` and `b` (R24, R96, R97), nothing recorded and no cycle
written down. -/
def State.afterReset (mode : DeltaMode) (a b : Bool) : State where
  lastState := BitVec.ofBool a ++ BitVec.ofBool b
  position := 0
  delta := 0
  deltaMode := mode
  ports := { rst := true, a := a, b := b }
  out := ⟨false, 0, false⟩
  fault := none
  pending := []
  draws := 0

/-- The machine right after reset: the default build (R8), with both contacts open, which the pull-ups read as 0b11 (R41,
R100). R24 makes `last_state` the lines of the reset cycle, an input: which levels those are is log entry 5, DESIGN CHOICE, unsafe. -/
def State.reset : State := State.afterReset .saturate true true

end Sys2Proof.Machine
end

