-- ==== Sys2Proof/Machine/Flags.lean ====
section
/-! DEFINITION. The block has no flags and no status register (R22). What a host operation signals is the output ports of its own
cycle, `rvalid`, `rdata` and `err` (R44); their three shapes stand here. -/

namespace Sys2Proof.Machine

/-- No response and no error: `rvalid = 0`, `rdata = 0x0000`, `err = 0` (R29, R44). -/
def quietOutputs : Outputs := ⟨false, 0, false⟩

/-- `respond(v)`: `rvalid = 1`, `rdata = v` (`00_scope.md` section 6, R44). -/
def respondOutputs (v : Count) : Outputs := ⟨true, v, false⟩

/-- CmdError: `err = 1`, `rvalid = 0`, `rdata = 0x0000` (R82). -/
def cmdErrorOutputs : Outputs := ⟨false, 0, true⟩

end Sys2Proof.Machine
end

