-- ==== Sys2Proof/Machine/Operands.lean ====
section
/-! DEFINITION. Operand and response forms: line-state assembly (R41), button polarity (R42), widening to the 16-bit port (R46). -/

namespace Sys2Proof.Machine

/-- `{a, b}`: bit 1 is the level of channel A and bit 0 that of channel B, as read (R41). -/
def lineState (a b : Bool) : LineState := BitVec.ofBool a ++ BitVec.ofBool b

/-- The line state of the present cycle (R41, R59). -/
def presentLines (s : State) : LineState := lineState s.ports.a s.ports.b

/-- The button is pressed when `btn_n = 0` (R42). -/
def pressed (s : State) : Bool := !s.ports.btnN

/-- `sext_16` of `delta`: bits 15:8 are eight copies of bit 7 (R46). -/
def sext16 (d : Delta) : Count := d.signExtend 16

/-- `zext_16` of a Boolean: bit 0 carries it and bits 15:1 are 0 (R46). -/
def zext16 (p : Bool) : Count := (BitVec.ofBool p).setWidth 16

end Sys2Proof.Machine
end

