-- ==== Sys2Proof/Machine/Ops.lean ====
section
/-! DEFINITION. The shared operations: register writes, `respond`, raising CmdError, seeding from the lines, the transition table and the
two counters' arithmetic. The block has no memory (R25) and no trap entry or return (R84, R88). -/

namespace Sys2Proof.Machine

/-- `last_state <- v`. -/
def State.setLastState (s : State) (v : LineState) : State := { s with lastState := v }

/-- `position <- v`. -/
def State.setPosition (s : State) (v : Count) : State := { s with position := v }

/-- `delta <- v`. -/
def State.setDelta (s : State) (v : Delta) : State := { s with delta := v }

/-- Drive the output ports for this cycle. -/
def State.setOut (s : State) (o : Outputs) : State := { s with out := o }

/-- Present a cycle's inputs to the block. -/
def State.setPorts (s : State) (inp : Inputs) : State := { s with ports := inp }

/-- The host operation of this cycle neither responds nor raises (R29). -/
def noResponse (s : State) : State := s.setOut quietOutputs

/-- `respond(v)`. -/
def respond (v : Count) (s : State) : State := s.setOut (respondOutputs v)

/-- `raise CmdError` (R82): the outputs say so for this cycle, no register is written, and the model records it for good (R95).
This is the whole of the block's exception entry: nothing is saved, masked or transferred (R84), and there is no return (R88). -/
def raiseCmdError (s : State) : State := { s.setOut cmdErrorOutputs with fault := some .cmdError }

/-- Seed `last_state` from the lines and zero the counters: INIT's effect (R55), and by R96 reset's too. -/
def seedFromLines (s : State) : State :=
  ((s.setLastState (presentLines s)).setPosition 0).setDelta 0

/-- `STEP` as R60 lists it, indexed by `4 * last_state + new_state`. -/
def stepTable : List Int := [0, 1, -1, 0, -1, 0, 0, 1, 1, 0, 0, -1, 0, -1, 1, 0]

/-- `STEP[l][n]` (R60). The index is below 16 for every pair. -/
def stepOf (l n : LineState) : Int := stepTable.getD (4 * l.toNat + n.toNat) 0

/-- `wrap16`: the integer modulo 2^16 (`00_scope.md` section 6). -/
def wrap16 (i : Int) : Count := BitVec.ofInt 16 i

/-- `wrap8`: the integer modulo 2^8. -/
def wrap8 (i : Int) : Delta := BitVec.ofInt 8 i

/-- `sat8`: the integer clamped to -128 to +127. -/
def sat8 (i : Int) : Delta :=
  if i < -128 then BitVec.ofInt 8 (-128)
  else if i > 127 then BitVec.ofInt 8 127
  else BitVec.ofInt 8 i

/-- `position` after a step (R65). -/
def stepPosition (p : Count) (k : Int) : Count := wrap16 (p.toInt + k)

/-- `delta` after a step, in either build (R66, R67). -/
def stepDelta (mode : DeltaMode) (d : Delta) (k : Int) : Delta :=
  match mode with
  | .saturate => sat8 (d.toInt + k)
  | .wrap => wrap8 (d.toInt + k)

/-- Count a step: on a non-zero step both counters move, on a zero step neither is written (R58, R68). -/
def countStep (k : Int) (s : State) : State :=
  if k = 0 then s
  else (s.setPosition (stepPosition s.position k)).setDelta (stepDelta s.deltaMode s.delta k)

/-- Take the next cycle's inputs: the head of the trace, or free ones where the trace is at its end (log entry 1). -/
def takeStimulus (s : State) : Stimulus × State :=
  match s.pending with
  | [] => (.settled (Config.freeInputs s.draws), { s with draws := s.draws + 1 })
  | x :: rest => (x, { s with pending := rest })

/-- Write down the inputs of the very next cycle, in place of what stood there. -/
def placeInputs (inp : Inputs) (s : State) : State :=
  { s with pending := .settled inp :: s.pending.tail }

end Sys2Proof.Machine
end

