-- ==== Sys2Proof/Machine/Button.lean ====
section
/-! DEFINITION. BUTTON (R77 to R79). -/

namespace Sys2Proof.Machine

/-- BUTTON (R77): respond whether the button line is low in this cycle; nothing is stored (R79). -/
def execButton (s : State) : Result := .next (respond (zext16 (pressed s)) s)

end Sys2Proof.Machine
end

