-- ==== Sys2Proof/Machine/Counters.lean ====
section
/-! DEFINITION. The host's access to the counters: GET_DELTA (R70), GET_POSITION (R72), SET_POSITION (R73). -/

namespace Sys2Proof.Machine

/-- GET_DELTA (R70): respond `sext_16(delta)`, then zero `delta`, in one action. -/
def execGetDelta (s : State) : Result := .next ((respond (sext16 s.delta) s).setDelta 0)

/-- GET_POSITION (R72): respond all 16 bits of `position` and change nothing. -/
def execGetPosition (s : State) : Result := .next (respond s.position s)

/-- SET_POSITION (R73): store `v` as given (R74) and zero `delta`. -/
def execSetPosition (v : Count) (s : State) : Result :=
  .next (noResponse ((s.setPosition v).setDelta 0))

end Sys2Proof.Machine
end

