-- ==== Sys2Proof/Machine/Idle.lean ====
section
/-! DEFINITION. NOP (R80). -/

namespace Sys2Proof.Machine

/-- NOP (R80): no register is read or written, no output is driven. -/
def execNop (s : State) : Result := .next (noResponse s)

end Sys2Proof.Machine
end

