-- ==== Sys2Proof/Machine/Initialise.lean ====
section
/-! DEFINITION. INIT (R55 to R57). -/

namespace Sys2Proof.Machine

/-- INIT (R55): seed `last_state`, zero both counters; no response and no error path (R56). It configures no pad (R57). -/
def execInit (s : State) : Result := .next (noResponse (seedFromLines s))

end Sys2Proof.Machine
end

