-- ==== Sys2Proof/Machine/Reserved.lean ====
section
/-! DEFINITION. The two reserved codes (R47, R82). -/

namespace Sys2Proof.Machine

/-- `cmd = 0b110` raises CmdError (R47, R82). -/
def execRsvd6 (s : State) : Result := .next (raiseCmdError s)

/-- `cmd = 0b111` raises CmdError (R47, R82). -/
def execRsvd7 (s : State) : Result := .next (raiseCmdError s)

end Sys2Proof.Machine
end

