-- ==== Sys2Proof/Machine/Sampling.lean ====
section
/-! DEFINITION. SAMPLE (R58). -/

namespace Sys2Proof.Machine

/-- SAMPLE (R58): look the transition up, count the step, and remember the new line state whether or not the step was zero (R64).
It drives no output: those of its cycle are the host operation's. -/
def execSample (s : State) : Result :=
  .next ((countStep (stepOf s.lastState (presentLines s)) s).setLastState (presentLines s))

end Sys2Proof.Machine
end

