-- ==== Sys2Proof/Machine/Cycle.lean ====
section
/-! DEFINITION. The `cycle` function of R29: reset first, else SAMPLE, then the host operation on the state SAMPLE has left. -/

namespace Sys2Proof.Machine

/-- Go on from a next state, or stop where the first part stopped. -/
def andThen (r : Result) (f : State → Result) : Result :=
  match r with
  | .next s => f s
  | .fault e => .fault e
  | .refused e => .refused e

/-- A cycle with `rst = 1` (R96, R97): INIT's effect on the registers, outputs quiet, everything else ignored. -/
def resetPhase (s : State) : Result := .next (noResponse (seedFromLines s))

/-- The sampler port's part of a cycle: SAMPLE when `tick = 1`, else nothing (R29, R51). -/
def samplerPhase (s : State) : Result :=
  match decodeT s.ports.tick with
  | some i => exec i s
  | none => .next s

/-- The host port's part of a cycle: the operation that `hreq` decodes to (R29). -/
def hostPhase (s : State) : Result := exec (decodeH s.ports.hreq) s

/-- One clock cycle with the inputs `inp` (R29; the order is R30's). -/
def cycle (inp : Inputs) (s : State) : Result :=
  if inp.rst then resetPhase (s.setPorts inp)
  else andThen (samplerPhase (s.setPorts inp)) hostPhase

end Sys2Proof.Machine
end

