-- ==== Sys2Proof/Machine/Step.lean ====
section
/-! DEFINITION. One step is one clock cycle (R37): take the cycle's inputs and apply `cycle`. -/

namespace Sys2Proof.Machine

/-- One period of `clk`. Inputs that are not stable have no meaning (R109). -/
def step (s : State) : Host.Outcome State Fault Refusal :=
  match takeStimulus s with
  | (.settled inp, s') => cycle inp s'
  | (.unsettled, _) => .refused .unsettledInputs

/-- The state whose very next cycle carries a table word on its own port (log entry 6). -/
def State.withFetchWord (s : State) (nbits w : Nat) : State :=
  placeInputs (inputsOfTableWord s.ports nbits w) s

end Sys2Proof.Machine
end

