-- ==== Sys2Proof/Machine/Trace.lean ====
section
/-! DEFINITION. The trace notation made into inputs (R53) and its pseudo-operations (R54). -/

namespace Sys2Proof.Machine

/-- The encoding of a trace cycle (R53): omitted `wdata` bits are 0, omitted `a`, `b` are 0 and omitted `btn_n` is 1. -/
def inputsOfTraceCycle (c : TraceCycle) : Inputs where
  rst := c.rst
  tick := c.sample
  a := c.a.getD false
  b := c.b.getD false
  btnN := c.btnN.getD true
  cmd := c.host.cmd
  wdata := c.host.wdata

/-- Write a trace down as the cycles to come. -/
def loadTrace (tr : List TraceCycle) (s : State) : State :=
  { s with pending := tr.map fun c => .settled (inputsOfTraceCycle c) }

/-- The place after `l` along 00→01→11→10→00, the +1 direction (R61). -/
def lineAfter (l : LineState) : LineState :=
  if l = 0b00 then 0b01 else if l = 0b01 then 0b11 else if l = 0b11 then 0b10 else 0b00

/-- The place after `l` along 00→10→11→01→00, the -1 direction (R61). -/
def lineBefore (l : LineState) : LineState :=
  if l = 0b00 then 0b10 else if l = 0b10 then 0b11 else if l = 0b11 then 0b01 else 0b00

/-- A SAMPLE of the line state `l`, A first. -/
def sampleOf (l : LineState) : TraceCycle :=
  { sample := true, a := some (l.getLsbD 1), b := some (l.getLsbD 0) }

/-- `IDLE k`: k cycles without reset, SAMPLE and host operation (R54). -/
def idleTrace (k : Nat) : List TraceCycle := List.replicate k {}

/-- `TURN+ k` from line state `l`: k SAMPLEs, each one place further in the +1 direction (R54). -/
def turnUp : Nat → LineState → List TraceCycle
  | 0, _ => []
  | k + 1, l => sampleOf (lineAfter l) :: turnUp k (lineAfter l)

/-- `TURN- k` from line state `l`: k SAMPLEs, each one place further in the -1 direction (R54). -/
def turnDown : Nat → LineState → List TraceCycle
  | 0, _ => []
  | k + 1, l => sampleOf (lineBefore l) :: turnDown k (lineBefore l)

/-- `HOLD k` at line state `l`: k SAMPLEs with the lines unchanged (R54). -/
def holdTrace (k : Nat) (l : LineState) : List TraceCycle := List.replicate k (sampleOf l)

/-- Did the latest cycle answer as the trace expects (R53)? -/
def meetsResponse (c : TraceCycle) (s : State) : Bool := decide (s.out = c.response)

end Sys2Proof.Machine
end

