-- ==== Sys2Proof/Safety.lean ====
section
/-! DEFINITION. The terms claims use: runs, what a cycle counts and consumes, the record a completed cycle leaves, the safe run of R95
and the sampler's duty of R103. Nothing here is part of the machine. -/

namespace Sys2Proof.Safety

open Sys2Proof.Machine

/-- The state a result goes on from, if it goes on. -/
def stateOf : Result → Option State
  | .next s => some s
  | .fault _ => none
  | .refused _ => none

/-- `n` cycles, stopping where a cycle has no meaning. -/
def runSteps : Nat → State → Result
  | 0, s => .next s
  | n + 1, s => andThen (step s) (runSteps n)

/-- The sum of `f before after` over the first `n` cycles. -/
def sumOver (f : State → State → Int) : Nat → State → Int
  | 0, _ => 0
  | n + 1, s =>
    match step s with
    | .next t => f s t + sumOver f n t
    | .fault _ => 0
    | .refused _ => 0

/-- `P before after` holds of each of the first `n` cycles. -/
def HoldsAlong (P : State → State → Prop) : Nat → State → Prop
  | 0, _ => True
  | n + 1, s =>
    match step s with
    | .next t => P s t ∧ HoldsAlong P n t
    | .fault _ => True
    | .refused _ => True

/-- The count of a transition under the convention of R61: +1 one place forward along 00→01→11→10→00, -1 one place back, and 0
otherwise (R62, R63). Written from the rotation, not from the table. -/
def turnOf (l n : LineState) : Int :=
  if n = lineAfter l then 1 else if n = lineBefore l then -1 else 0

/-- What the cycle from `s` to `t` counted: the rotation if it was a SAMPLE, else 0. -/
def counted (s t : State) : Int :=
  if t.ports.rst = false ∧ t.ports.tick = true then turnOf s.lastState (presentLines t) else 0

/-- What the cycle that ended in `t` gave to the host through GET_DELTA, read as a signed number (R46, R70). -/
def consumed (_s t : State) : Int :=
  if t.ports.rst = false ∧ t.ports.cmd = 0b010 then t.out.rdata.toInt else 0

/-- The cycle forgets nothing: no reset, no INIT, no SET_POSITION (R110). -/
def Keeps (_s t : State) : Prop :=
  t.ports.rst = false ∧ t.ports.cmd ≠ 0b001 ∧ t.ports.cmd ≠ 0b100

/-- The cycle's step does not pass a bound of `delta` (R18, R35). -/
def InBounds (s t : State) : Prop :=
  -128 ≤ s.delta.toInt + counted s t ∧ s.delta.toInt + counted s t ≤ 127

/-- The three registers of R13. -/
def registers (s : State) : LineState × Count × Delta := (s.lastState, s.position, s.delta)

/-- The latest cycle was a sampling instant: reset, INIT or SAMPLE (R15). -/
def samplingInstant (inp : Inputs) : Bool := inp.rst || inp.tick || decide (inp.cmd = 0b001)

/-- The latest cycle's host operation responds (R44). -/
def responds (inp : Inputs) : Bool :=
  !inp.rst && (decide (inp.cmd = 0b010) || decide (inp.cmd = 0b011) || decide (inp.cmd = 0b101))

/-- The latest cycle's `cmd` raises CmdError (R44, R82). -/
def raises (inp : Inputs) : Bool :=
  !inp.rst && (decide (inp.cmd = 0b110) || decide (inp.cmd = 0b111))

/-- No CmdError has been recorded (R95). -/
def CmdErrorFree (s : State) : Prop := s.fault = none

/-- "No CmdError was raised", the premise that R95 asks of every claim about a trace: nothing is recorded before the first of its `n`
cycles, nor after any of them. -/
def SafeRun (n : Nat) (s : State) : Prop :=
  CmdErrorFree s ∧ HoldsAlong (fun _ t => CmdErrorFree t) n s

/-- A cycle in which neither agent and no reset asks for anything (R81). -/
def isIdle (inp : Inputs) : Bool := !inp.rst && !inp.tick && decide (inp.cmd = 0b000)

/-- What a completed cycle leaves to be seen: the outputs of R44 and R46, the line state of R15, and the register values the
latest operation forces (R55, R70, R73, R96). The machine keeps this as an invariant. -/
structure Consistent (s : State) : Prop where
  rvalid_iff : s.out.rvalid = responds s.ports
  err_iff : s.out.err = raises s.ports
  rdata_idle : s.out.rvalid = false → s.out.rdata = 0
  err_recorded : s.out.err = true → s.fault = some .cmdError
  lines_kept : samplingInstant s.ports = true →
    s.lastState.getLsbD 1 = s.ports.a ∧ s.lastState.getLsbD 0 = s.ports.b
  start_zero : s.ports.rst = true ∨ s.ports.cmd = 0b001 → s.position = 0 ∧ s.delta = 0
  delta_consumed : s.ports.rst = false → s.ports.cmd = 0b010 → s.delta = 0
  position_shown : s.ports.rst = false → s.ports.cmd = 0b011 → s.out.rdata = s.position
  position_set : s.ports.rst = false → s.ports.cmd = 0b100 → s.position = s.ports.wdata ∧ s.delta = 0
  button_shown : s.ports.rst = false → s.ports.cmd = 0b101 →
    s.out.rdata = if s.ports.btnN then 0 else 1

/-- The line state of the knob at place `m`, one place being one change along the +1 direction of R61 from 00. -/
def linesAtPlace (m : Int) : LineState :=
  if m % 4 = 0 then 0b00 else if m % 4 = 1 then 0b01 else if m % 4 = 2 then 0b11 else 0b10

/-- A cycle that samples the knob at place `m`, the host port idle. -/
def sampleAtPlace (m : Int) : Inputs :=
  { tick := true, a := (linesAtPlace m).getLsbD 1, b := (linesAtPlace m).getLsbD 0 }

/-- The sampler's duty of R103: from one sampling instant to the next the knob moves at most one place. -/
def RateKept : Int → List Int → Prop
  | _, [] => True
  | m, m' :: ms => (m' - m).natAbs ≤ 1 ∧ RateKept m' ms

end Sys2Proof.Safety
end

