-- ==== Sys2Proof/Certificates/Slice0/Obligations.lean ====
section
/-! DEFINITION. What is to be proved about the machine, one proposition each. A result statement gives the whole next state, so its frame
is in it: what the equation does not set is unchanged. The block has no memory (R25) and no flags (R22), so no frame names either. A
statement about one operation or one cycle holds from every state; a statement about a trace, several cycles one after the other, takes
R95's premise that no CmdError was raised, `SafeRun`. -/

open Sys2Proof
open Sys2Proof.Machine
open Sys2Proof.Safety

/-! ## Encoding -/

/-- Words written out from the encodings of R39, R40, R45 and R47 decode to the operations they stand for. -/
def Obligations.EncodingWordsDecode : Prop :=
  decode ⟨.T, 0b1⟩ = .ok .sample ∧
  decode ⟨.H, 0b000_0000000000000000⟩ = .ok .nop ∧
  decode ⟨.H, 0b001_1011111011101111⟩ = .ok .init ∧
  decode ⟨.H, 0b010_0001001000110100⟩ = .ok .getDelta ∧
  decode ⟨.H, 0b011_0000000000000000⟩ = .ok .getPosition ∧
  decode ⟨.H, 0b100_1111111111111011⟩ = .ok (.setPosition 0xFFFB) ∧
  decode ⟨.H, 0b101_0000000000000000⟩ = .ok .button ∧
  decode ⟨.H, 0b110_0000000000000000⟩ = .ok .rsvd6 ∧
  decode ⟨.H, 0b111_0000000000000001⟩ = .ok .rsvd7

/-- The match and mask of every format-H row (R45, and R47 for the reserved codes) select its operation, whatever the other
sixteen bits are; SET_POSITION takes them as its operand (R43). -/
def Obligations.HostWordsDecodeByMatchAndMask : Prop :=
  ∀ w : HReq,
    (w &&& 0x70000 = 0x00000 → decodeH w = .nop) ∧
    (w &&& 0x70000 = 0x10000 → decodeH w = .init) ∧
    (w &&& 0x70000 = 0x20000 → decodeH w = .getDelta) ∧
    (w &&& 0x70000 = 0x30000 → decodeH w = .getPosition) ∧
    (w &&& 0x70000 = 0x40000 → decodeH w = .setPosition (w.setWidth 16)) ∧
    (w &&& 0x70000 = 0x50000 → decodeH w = .button) ∧
    (w &&& 0x70000 = 0x60000 → decodeH w = .rsvd6) ∧
    (w &&& 0x70000 = 0x70000 → decodeH w = .rsvd7)

/-- Every format-H word is one of the operations of the host port (R45, R49), and the only words that are no operation are `tick = 0`
(R51) and numbers with bits their format does not have. That such numbers are refused, under the name `tooWide`, is the model's choice
(log entry 7, DESIGN CHOICE), and so is the name `noSample`: the spec writes down no such numbers. -/
def Obligations.EveryPortWordDecodesOrIsNamed : Prop :=
  (∀ w : HReq, ∃ i, decode ⟨.H, w.toNat⟩ = .ok i ∧ i.format = .H) ∧
  (∀ w : PortWord, decode w = .error .tooWide ↔ 2 ^ w.format.width ≤ w.bits) ∧
  (∀ w : PortWord, decode w = .error .noSample ↔ w = ⟨.T, 0⟩)

/-- Decoding inverts encoding at every operand; and whatever a word decodes to encodes to that word again, but for the
`wdata` bits that R48 says are ignored. -/
def Obligations.DecodeInvertsEncode : Prop :=
  (∀ i : Instr, (encode i).wf = true ∧ decode (encode i) = .ok i) ∧
  (∀ (w : PortWord) (i : Instr), decode w = .ok i →
    (encode i).format = w.format ∧ (encode i).bits / 2 ^ 16 = w.bits / 2 ^ 16 ∧
    (i.format = .T → encode i = w) ∧ (∀ v, i = .setPosition v → encode i = w))

/-- A well-formed cycle of the trace notation drives the ports with what it names, and the two decoders read it back (R53). -/
def Obligations.TraceCycleDrivesItsPorts : Prop :=
  ∀ c : TraceCycle, c.wf = true →
    (inputsOfTraceCycle c).rst = c.rst ∧
    decodeT (inputsOfTraceCycle c).tick = (if c.sample then some .sample else none) ∧
    decodeH (inputsOfTraceCycle c).hreq = c.host ∧
    (inputsOfTraceCycle c).a = c.a.getD false ∧ (inputsOfTraceCycle c).b = c.b.getD false ∧
    (inputsOfTraceCycle c).btnN = c.btnN.getD true

/-! ## The step -/

/-- A cycle without reset runs what its ports decode to: the host operation alone, or SAMPLE and then the host operation. What the
step adds is that it takes the cycle's inputs off the trace and presents them. -/
def Obligations.StepRunsTheDecodedOperations : Prop :=
  ∀ (s : State) (inp : Inputs) (rest : List Stimulus),
    s.pending = .settled inp :: rest → inp.rst = false →
    (inp.tick = false →
      step s = exec (decodeH inp.hreq) { s with pending := rest, ports := inp }) ∧
    (inp.tick = true →
      ∃ t, exec .sample { s with pending := rest, ports := inp } = .next t ∧
        step s = exec (decodeH inp.hreq) t)

/-- A table word placed for the next cycle is what that cycle runs, with the lines at the levels they had: a format-H word alone, a
SAMPLE beside NOP (the model's `withFetchWord`, log entry 6). -/
def Obligations.PlacedTableWordRuns : Prop :=
  ∀ (s : State) (nbits w : Nat) (i : Instr), decodeTableWord nbits w = some i →
    ∃ inp : Inputs, inp.a = s.ports.a ∧ inp.b = s.ports.b ∧ inp.btnN = s.ports.btnN ∧
      (i.format = .H → step (s.withFetchWord nbits w) =
        exec i { s with pending := s.pending.tail, ports := inp }) ∧
      (i.format = .T → ∃ t, exec i { s with pending := s.pending.tail, ports := inp } = .next t ∧
        step (s.withFetchWord nbits w) = exec .nop t)

/-- At the end of the trace the inputs are free: the cycle runs on `Config.freeInputs`, whatever they are (log entry 1). -/
def Obligations.TraceEndTakesFreeInputs : Prop :=
  ∀ s : State, s.pending = [] →
    step s = cycle (Config.freeInputs s.draws) { s with draws := s.draws + 1 }

/-- Every cycle with stable inputs has a next state, from every state whatever its registers hold (R29 "The function is total", R98);
the one thing that stops a step is a cycle that R109 gives no meaning. -/
def Obligations.StepStopsOnlyOnUnsettledInputs : Prop :=
  ∀ s : State,
    (∃ rest, s.pending = .unsettled :: rest ∧ step s = .refused .unsettledInputs) ∨
    ((∀ rest, s.pending ≠ .unsettled :: rest) ∧ ∃ t, step s = .next t)

/-! ## Reset -/

/-- `State.reset` holds what a reset cycle leaves: zero counters and the lines of that cycle (R24), and quiet outputs (R97); its build is
the default one (R8). The model's choices in it: that the build stands in the state at all (log entry 2), that no CmdError is recorded,
which a reset cycle would not bring about, since none clears a record (log entry 4), and which levels the lines have (log entry 5; this
statement does not use them). -/
def Obligations.ResetStateIsLeftByAResetCycle : Prop :=
  State.reset.position = 0 ∧ State.reset.delta = 0 ∧
  State.reset.lastState.getLsbD 1 = State.reset.ports.a ∧
  State.reset.lastState.getLsbD 0 = State.reset.ports.b ∧
  State.reset.ports.rst = true ∧ State.reset.out = ⟨false, 0, false⟩ ∧
  State.reset.deltaMode = .saturate ∧ CmdErrorFree State.reset

/-- The record of `State.reset` is consistent. -/
def Obligations.ResetStateConsistent : Prop := Consistent State.reset

/-- A cycle with `rst = 1` seeds `last_state`, zeroes the counters and drives quiet outputs, and ignores every other input: no
SAMPLE, no host operation and no CmdError (R96, R97). -/
def Obligations.ResetCycleSeedsAndZeroes : Prop :=
  ∀ (s : State) (inp : Inputs) (rest : List Stimulus),
    s.pending = .settled inp :: rest → inp.rst = true →
    ∃ l : LineState, l.getLsbD 1 = inp.a ∧ l.getLsbD 0 = inp.b ∧
      step s = .next { s with lastState := l, position := 0, delta := 0,
                              out := ⟨false, 0, false⟩, ports := inp, pending := rest }

/-- Reset held for several cycles leaves the lines of its last cycle, and zero counters after each (R99). Premise of R95: `SafeRun`. -/
def Obligations.HeldResetLeavesTheLastSeed : Prop :=
  ∀ (s : State) (held : List Inputs) (last : Inputs) (rest : List Stimulus),
    s.pending = (held ++ [last]).map .settled ++ rest →
    (∀ inp ∈ held, inp.rst = true) → last.rst = true → SafeRun (held.length + 1) s →
    ∃ t, runSteps (held.length + 1) s = .next t ∧ t.pending = rest ∧
      t.lastState.getLsbD 1 = last.a ∧ t.lastState.getLsbD 0 = last.b ∧
      t.position = 0 ∧ t.delta = 0

/-- A reset cycle or an INIT makes the registers forget whatever they held, unspecified values too (R98, R102). -/
def Obligations.ResetAndInitForgetThePast : Prop :=
  ∀ (s u : State) (inp : Inputs) (rest rest' : List Stimulus),
    s.pending = .settled inp :: rest → u.pending = .settled inp :: rest' →
    inp.rst = true ∨ inp.cmd = 0b001 →
    ∃ t t', step s = .next t ∧ step u = .next t' ∧ registers t = registers t' ∧ t.out = t'.out

/-! ## INIT, NOP and the reserved codes -/

/-- INIT seeds `last_state` from the lines, zeroes both counters and raises nothing, whatever was there (R55, R56). Its corner cases: it is
idempotent while the lines do not change; after a SAMPLE of the same cycle it does what it does alone; and a SAMPLE after it with the lines
unchanged counts nothing and changes nothing. -/
def Obligations.InitSeedsAndZeroes : Prop :=
  ∀ s : State, ∃ t, exec .init s = .next t ∧
    (∃ l : LineState, l.getLsbD 1 = s.ports.a ∧ l.getLsbD 0 = s.ports.b ∧
      t = { s with lastState := l, position := 0, delta := 0, out := ⟨false, 0, false⟩ }) ∧
    exec .init t = .next t ∧
    (∀ u, exec .sample s = .next u → exec .init u = .next t) ∧
    exec .sample t = .next t

/-- NOP reads and writes no register and drives no output (R80). -/
def Obligations.NopDoesNothing : Prop :=
  ∀ s : State, exec .nop s = .next { s with out := ⟨false, 0, false⟩ }

/-- Any number of idle cycles, whatever the lines, the button and `wdata` do in them, can be put before a cycle without changing any
later output or state (R81), in a trace that raises no CmdError (R95). -/
def Obligations.IdleCyclesAreInvisible : Prop :=
  ∀ (s : State) (idle : List Inputs) (rest : List Stimulus) (m : Nat),
    (∀ inp ∈ idle, isIdle inp = true) → SafeRun (m + 1) { s with pending := rest } →
    runSteps (idle.length + (m + 1)) { s with pending := idle.map .settled ++ rest } =
      runSteps (m + 1) { s with pending := rest }

/-- The two reserved codes raise CmdError: `err = 1`, `rvalid = 0`, `rdata = 0x0000`, no register written (R82); the model
records it (R95; that the machine goes on with the record kept is log entry 4, DEDUCED). -/
def Obligations.ReservedCodesRaiseCmdError : Prop :=
  ∀ s : State,
    exec .rsvd6 s = .next { s with out := ⟨false, 0, true⟩, fault := some .cmdError } ∧
    exec .rsvd7 s = .next { s with out := ⟨false, 0, true⟩, fault := some .cmdError }

/-- A cycle with a reserved code does what the same cycle with NOP does, a SAMPLE in it included, and differs from it in nothing but the
outputs, which say CmdError, and the model's record of it; and `err` is back at 0 in the next cycle whose `cmd` is not reserved (R47, R82,
R84). The record is no part of the block: R95 asks the model for it, and that it stands beside a machine that goes on is log entry 4,
DEDUCED. -/
def Obligations.CmdErrorIsHarmlessAndNotLatched : Prop :=
  ∀ (s : State) (inp : Inputs) (rest : List Stimulus),
    s.pending = .settled inp :: rest → inp.rst = false → inp.cmd = 0b110 ∨ inp.cmd = 0b111 →
    ∃ t t', step s = .next t ∧
      step { s with pending := .settled { inp with cmd := 0b000 } :: rest } = .next t' ∧
      t = { t' with ports := inp, out := ⟨false, 0, true⟩, fault := some .cmdError } ∧
      (∀ u, step t = .next u → raises u.ports = false → u.out.err = false)

/-- A CmdError is recorded exactly by a cycle that raises one, and the record is never cleared, by a reset neither (R95; log entry 4,
DEDUCED). -/
def Obligations.CmdErrorRecordIsSticky : Prop :=
  (∀ s t : State, step s = .next t →
    (CmdErrorFree t ↔ CmdErrorFree s ∧ raises t.ports = false)) ∧
  (∀ (n : Nat) (s t : State) (f : Fault), runSteps n s = .next t → s.fault = some f → t.fault = some f)

/-! ## SAMPLE -/

/-- The transition table, entry by entry: R61's eight adjacent pairs, R62's four equal pairs, R63's four double-bit changes; and
the closed form of R60. -/
def Obligations.TransitionTableEntries : Prop :=
  (stepOf 0b00 0b01 = 1 ∧ stepOf 0b01 0b11 = 1 ∧ stepOf 0b11 0b10 = 1 ∧ stepOf 0b10 0b00 = 1) ∧
  (stepOf 0b00 0b10 = -1 ∧ stepOf 0b10 0b11 = -1 ∧ stepOf 0b11 0b01 = -1 ∧ stepOf 0b01 0b00 = -1) ∧
  (stepOf 0b00 0b00 = 0 ∧ stepOf 0b01 0b01 = 0 ∧ stepOf 0b10 0b10 = 0 ∧ stepOf 0b11 0b11 = 0) ∧
  (stepOf 0b00 0b11 = 0 ∧ stepOf 0b11 0b00 = 0 ∧ stepOf 0b01 0b10 = 0 ∧ stepOf 0b10 0b01 = 0) ∧
  (∀ l n : LineState, stepOf l n =
    ((l.getLsbD 1 ^^ n.getLsbD 0).toNat : Int) - ((l.getLsbD 0 ^^ n.getLsbD 1).toNat : Int))

/-- The checks that part 1, S1 of the test vectors asks of the table: going back negates the step, complementing both lines changes
nothing, swapping the channels negates it. -/
def Obligations.TransitionTableSymmetries : Prop :=
  ∀ l n : LineState, stepOf n l = - stepOf l n ∧ stepOf (~~~l) (~~~n) = stepOf l n ∧
    stepOf (l.rotateLeft 1) (n.rotateLeft 1) = - stepOf l n

/-- SAMPLE completes from every state: it writes `last_state` with the lines, counts the rotation into both counters (wrapping
`position`; saturating or wrapping `delta` as the build says), writes neither counter on a zero step, and touches nothing
else, the outputs included (R58, R64, R68). -/
def Obligations.SampleCountsTheRotation : Prop :=
  ∀ s : State, ∃ (n : LineState) (p : Count) (d : Delta),
    exec .sample s = .next { s with lastState := n, position := p, delta := d } ∧
    n.getLsbD 1 = s.ports.a ∧ n.getLsbD 0 = s.ports.b ∧
    (turnOf s.lastState n = 0 → p = s.position ∧ d = s.delta) ∧
    p.toInt = (s.position.toInt + turnOf s.lastState n + 32768) % 65536 - 32768 ∧
    (s.deltaMode = .saturate →
      d.toInt = max (-128) (min 127 (s.delta.toInt + turnOf s.lastState n))) ∧
    (s.deltaMode = .wrap →
      d.toInt = (s.delta.toInt + turnOf s.lastState n + 128) % 256 - 128)

/-- `position` is counted modulo 2^16 into -32768 to +32767 and wraps at both ends, nothing signals it, and on a zero step it is not
written (R65). The step is the table's. -/
def Obligations.SamplePositionWraps : Prop :=
  ∀ s : State, ∃ t, exec .sample s = .next t ∧ t.out = s.out ∧
    t.position.toInt =
      (s.position.toInt + stepOf s.lastState (presentLines s) + 32768) % 65536 - 32768 ∧
    (s.position = 0x7FFF → stepOf s.lastState (presentLines s) = 1 → t.position = 0x8000) ∧
    (s.position = 0x8000 → stepOf s.lastState (presentLines s) = -1 → t.position = 0x7FFF) ∧
    (stepOf s.lastState (presentLines s) = 0 → t.position = s.position)

/-- `delta` saturates at +127 and -128, silently, and is exact otherwise, a step off a bound included; `position` counts the step all the
same (R66). -/
def Obligations.SampleDeltaSaturates : Prop :=
  ∀ s : State, s.deltaMode = .saturate → ∃ t, exec .sample s = .next t ∧ t.out = s.out ∧
    t.position.toInt =
      (s.position.toInt + stepOf s.lastState (presentLines s) + 32768) % 65536 - 32768 ∧
    (if s.delta.toInt = 127 ∧ stepOf s.lastState (presentLines s) = 1 then t.delta.toInt = 127
     else if s.delta.toInt = -128 ∧ stepOf s.lastState (presentLines s) = -1 then
       t.delta.toInt = -128
     else t.delta.toInt = s.delta.toInt + stepOf s.lastState (presentLines s))

/-- In a `WRAP` build `delta` wraps at both ends and is exact otherwise, and all else is as in the other build (R67). -/
def Obligations.SampleDeltaWraps : Prop :=
  ∀ s : State, s.deltaMode = .wrap → ∃ t, exec .sample s = .next t ∧
    (if s.delta.toInt = 127 ∧ stepOf s.lastState (presentLines s) = 1 then t.delta = 0x80
     else if s.delta.toInt = -128 ∧ stepOf s.lastState (presentLines s) = -1 then t.delta = 0x7F
     else t.delta.toInt = s.delta.toInt + stepOf s.lastState (presentLines s)) ∧
    ∃ u, exec .sample { s with deltaMode := .saturate } = .next u ∧
      t = { u with deltaMode := .wrap, delta := t.delta }

/-- When both lines have changed the step is 0 (R63); and on a zero step neither counter is written, nothing is flagged and only
`last_state` moves (R63, R68). -/
def Obligations.ZeroStepMovesOnlyTheLines : Prop :=
  ∀ s : State,
    (s.lastState.getLsbD 1 ≠ s.ports.a → s.lastState.getLsbD 0 ≠ s.ports.b →
      stepOf s.lastState (presentLines s) = 0) ∧
    (stepOf s.lastState (presentLines s) = 0 →
      ∃ n : LineState, n.getLsbD 1 = s.ports.a ∧ n.getLsbD 0 = s.ports.b ∧
        exec .sample s = .next { s with lastState := n })

/-- After a sampling instant `last_state` is the lines of that cycle whatever the table returned, and no other cycle writes it
(R15). -/
def Obligations.LastStateIsTheLatestSample : Prop :=
  ∀ s t : State, step s = .next t →
    (samplingInstant t.ports = true →
      t.lastState.getLsbD 1 = t.ports.a ∧ t.lastState.getLsbD 0 = t.ports.b) ∧
    (samplingInstant t.ports = false → t.lastState = s.lastState)

/-- A knob that has moved `k` places in the +1 direction since the last sample is seen only modulo 4: 0 and 2 count 0, 1 counts +1, 3
counts -1 (R104). -/
def Obligations.MotionIsSeenModuloFour : Prop :=
  ∀ (s : State) (m k : Int), s.lastState = linesAtPlace m → presentLines s = linesAtPlace (m + k) →
    ∃ t, exec .sample s = .next t ∧ t.lastState = linesAtPlace (m + k) ∧
      t.position = s.position + BitVec.ofInt 16
        (if k % 4 = 1 then 1 else if k % 4 = 3 then -1 else 0)

/-- A contact that changes and changes back between two samples: `last_state` and `position` are as before, and so is `delta`, but that a
saturated `delta` loses the step that found it at its bound (R113). Premise of R95: `SafeRun`. -/
def Obligations.BounceLeavesThePosition : Prop :=
  ∀ (s : State) (there back : Inputs) (rest : List Stimulus),
    s.pending = .settled there :: .settled back :: rest →
    there.rst = false → there.tick = true → there.cmd = 0b000 →
    back.rst = false → back.tick = true → back.cmd = 0b000 →
    s.lastState.getLsbD 1 = back.a → s.lastState.getLsbD 0 = back.b → SafeRun 2 s →
    ∃ t u, step s = .next t ∧ step t = .next u ∧
      u.lastState = s.lastState ∧ u.position = s.position ∧
      (s.deltaMode = .wrap → u.delta = s.delta) ∧
      (s.deltaMode = .saturate → u.delta.toInt = s.delta.toInt +
        (if s.delta.toInt = 127 ∧ turnOf s.lastState t.lastState = 1 then -1
         else if s.delta.toInt = -128 ∧ turnOf s.lastState t.lastState = -1 then 1 else 0))

/-- A count and the lines keep their common parity: each counted step changes exactly one line, each uncounted sample none or both.
Only a cycle that sets `position` (reset, INIT, SET_POSITION) can break it (from R61 to R65). -/
def Obligations.PositionAndLinesKeepTheirParity : Prop :=
  ∀ s t : State, step s = .next t → Keeps s t →
    (t.position.getLsbD 0 ^^ t.lastState.getLsbD 1 ^^ t.lastState.getLsbD 0) =
      (s.position.getLsbD 0 ^^ s.lastState.getLsbD 1 ^^ s.lastState.getLsbD 0)

/-! ## GET_DELTA, GET_POSITION, SET_POSITION, BUTTON -/

/-- GET_DELTA answers `delta`, read as a signed number, and zeroes it; it writes nothing else (R70). -/
def Obligations.GetDeltaReadsAndClears : Prop :=
  ∀ s : State, ∃ v : Count, v.toInt = s.delta.toInt ∧
    exec .getDelta s = .next { s with delta := 0, out := ⟨true, v, false⟩ }

/-- GET_POSITION answers all 16 bits of `position` and writes no register (R72). -/
def Obligations.GetPositionReads : Prop :=
  ∀ s : State, exec .getPosition s = .next { s with out := ⟨true, s.position, false⟩ }

/-- SET_POSITION stores every 16-bit operand as given and zeroes `delta`; `last_state` is untouched and nothing is raised (R73,
R74). -/
def Obligations.SetPositionStoresAndClears : Prop :=
  ∀ (s : State) (v : Count),
    exec (.setPosition v) s = .next { s with position := v, delta := 0, out := ⟨false, 0, false⟩ }

/-- BUTTON answers 1 when the line is low and 0 when it is high, and writes no register (R77). -/
def Obligations.ButtonReadsTheLine : Prop :=
  ∀ s : State,
    exec .button s = .next { s with out := ⟨true, if s.ports.btnN then 0x0000 else 0x0001, false⟩ }

/-- The responses bit by bit: all of `position`; `delta` with eight copies of its top bit above it; the button in bit 0 alone (R46). -/
def Obligations.ResponsesAreWidenedToThePort : Prop :=
  ∀ (s t : State),
    (exec .getPosition s = .next t → t.out.rdata = s.position) ∧
    (exec .getDelta s = .next t → t.out.rdata.toInt = s.delta.toInt ∧
      ∀ k < 16, t.out.rdata.getLsbD k = s.delta.getLsbD (min k 7)) ∧
    (exec .button s = .next t →
      ∀ k < 16, t.out.rdata.getLsbD k = (decide (k = 0) && !s.ports.btnN))

/-- None of the three counter operations reads the lines, writes `last_state` or leaves in `delta` anything but what it was or 0
(R75). -/
def Obligations.CounterOperationsLeaveTheLines : Prop :=
  ∀ (i : Instr) (s : State) (a b : Bool),
    i = .getDelta ∨ i = .getPosition ∨ (∃ v, i = .setPosition v) →
    ∃ t t', exec i s = .next t ∧ exec i { s with ports := { s.ports with a := a, b := b } } = .next t' ∧
      registers t = registers t' ∧ t.out = t'.out ∧
      t.lastState = s.lastState ∧ (t.delta = s.delta ∨ t.delta = 0)

/-- Two GET_DELTAs with no SAMPLE, INIT, SET_POSITION or reset between them: the value once, then 0 (R71), in a trace that raises no
CmdError (R95). -/
def Obligations.DeltaIsConsumedOnce : Prop :=
  ∀ (s : State) (first last : Inputs) (between : List Inputs) (rest : List Stimulus),
    s.pending = (first :: between ++ [last]).map .settled ++ rest →
    (∀ inp ∈ first :: between ++ [last], inp.rst = false) →
    first.cmd = 0b010 → last.cmd = 0b010 →
    (∀ inp ∈ between ++ [last], inp.tick = false ∧ inp.cmd ≠ 0b001 ∧ inp.cmd ≠ 0b100) →
    SafeRun (between.length + 2) s →
    (∃ t, step s = .next t ∧ t.out.rvalid = true ∧
      (first.tick = false → t.out.rdata.toInt = s.delta.toInt)) ∧
    (∃ u, runSteps (between.length + 2) s = .next u ∧ u.out = ⟨true, 0, false⟩)

/-- GET_POSITION and BUTTON repeated with no SAMPLE, INIT, SET_POSITION or reset between (and, for BUTTON alone, the button line
unchanged) answer the same (R34), in a trace that raises no CmdError (R95). -/
def Obligations.PositionAndButtonReadsRepeat : Prop :=
  ∀ (s : State) (first last : Inputs) (between : List Inputs) (rest : List Stimulus),
    s.pending = (first :: between ++ [last]).map .settled ++ rest →
    (∀ inp ∈ first :: between ++ [last], inp.rst = false) →
    first.cmd = 0b011 ∨ first.cmd = 0b101 → last.cmd = first.cmd →
    (first.cmd = 0b101 → last.btnN = first.btnN) →
    (∀ inp ∈ between ++ [last], inp.tick = false ∧ inp.cmd ≠ 0b001 ∧ inp.cmd ≠ 0b100) →
    SafeRun (between.length + 2) s →
    ∃ t u, step s = .next t ∧ runSteps (between.length + 2) s = .next u ∧ u.out = t.out

/-! ## The ports and the order within a cycle -/

/-- A SAMPLE and a host operation in one cycle have exactly the effect of the SAMPLE first and the host operation second, as two
operations of their own; so GET_DELTA seed (R30). The two cycles beside the one only say what "as two separate operations" means; the claim is about the one cycle, with a
reserved code too (R47). -/
def Obligations.SampleComesBeforeTheHostOperation : Prop :=
  ∀ (s : State) (inp : Inputs) (rest : List Stimulus),
    s.pending = .settled inp :: rest → inp.rst = false → inp.tick = true →
    ∃ t t', step s = .next t ∧
      runSteps 2 { s with pending := .settled { inp with cmd := 0b000 } ::
                                     .settled { inp with tick := false } :: rest } = .next t' ∧
      registers t = registers t' ∧ t.out = t'.out ∧ t.fault = t'.fault ∧ t.pending = t'.pending ∧
      (inp.cmd = 0b001 → t.lastState.getLsbD 1 = inp.a ∧ t.lastState.getLsbD 0 = inp.b ∧
        t.position = 0 ∧ t.delta = 0) ∧
      (inp.cmd = 0b010 → t.delta = 0) ∧
      (inp.cmd = 0b011 → t.out.rdata = t.position) ∧
      (inp.cmd = 0b100 → t.position = inp.wdata ∧ t.delta = 0)

/-- `rvalid` and `err` are 1 exactly in the cycles R44 names, never together; `rdata` is 0 without `rvalid`, and otherwise shows the
state the cycle's SAMPLE left, where there was one. -/
def Obligations.ResponseSignalsFollowTheCommand : Prop :=
  ∀ s t : State, step s = .next t →
    (t.out.rvalid = true ↔ t.ports.rst = false ∧
      (t.ports.cmd = 0b010 ∨ t.ports.cmd = 0b011 ∨ t.ports.cmd = 0b101)) ∧
    (t.out.err = true ↔ t.ports.rst = false ∧ (t.ports.cmd = 0b110 ∨ t.ports.cmd = 0b111)) ∧
    ¬ (t.out.rvalid = true ∧ t.out.err = true) ∧
    (t.out.rvalid = false → t.out.rdata = 0x0000) ∧
    (t.ports.rst = false →
      ∃ u, (if t.ports.tick then exec .sample ((takeStimulus s).2.setPorts t.ports)
            else .next ((takeStimulus s).2.setPorts t.ports)) = .next u ∧
        (t.ports.cmd = 0b010 → t.out.rdata.toInt = u.delta.toInt) ∧
        (t.ports.cmd = 0b011 → t.out.rdata = u.position) ∧
        (t.ports.cmd = 0b101 → t.out.rdata = if t.ports.btnN then 0 else 1))

/-- Two cycles whose inputs differ only where R48 says they are ignored have the same outputs and leave the same registers. -/
def Obligations.IgnoredInputsDoNotMatter : Prop :=
  ∀ (s : State) (inp inp' : Inputs) (rest : List Stimulus),
    inp.rst = inp'.rst →
    (inp.rst = false → inp.tick = inp'.tick ∧ inp.cmd = inp'.cmd) →
    (inp.rst = false → inp.cmd = 0b100 → inp.wdata = inp'.wdata) →
    (inp.rst = false → inp.cmd = 0b101 → inp.btnN = inp'.btnN) →
    (inp.rst = true ∨ inp.tick = true ∨ inp.cmd = 0b001 → inp.a = inp'.a ∧ inp.b = inp'.b) →
    ∃ t t', step { s with pending := .settled inp :: rest } = .next t ∧
      step { s with pending := .settled inp' :: rest } = .next t' ∧
      registers t = registers t' ∧ t.out = t'.out ∧ t.fault = t'.fault

/-- The block has no hidden state: two states of one build that agree on the three registers, given the same inputs for the next cycle,
drive the same outputs and go on to the same registers; or, where those inputs are not stable, both are refused (R23). Nothing else they
hold plays a part: no recorded CmdError (there is no latched error), not what the ports showed before, not the cycles after. The build
(R8) stands in the state by the model's choice (log entry 2) and is a hypothesis for that reason. -/
def Obligations.RegistersAndInputsDetermineTheCycle : Prop :=
  ∀ s u : State, registers s = registers u → s.deltaMode = u.deltaMode →
    (takeStimulus s).1 = (takeStimulus u).1 →
    (step s = .refused .unsettledInputs ∧ step u = .refused .unsettledInputs) ∨
    (∃ t t', step s = .next t ∧ step u = .next t' ∧ registers t = registers t' ∧ t.out = t'.out)

/-- What the model keeps beside the block feeds back into nothing. The ports and outputs of the latest cycle play no part in the next
step at all (log entry 8, DESIGN CHOICE); and a step with another record of CmdErrors differs in that record alone, which is kept unless
the cycle raises one itself (R95; log entry 4, DEDUCED). -/
def Obligations.ModelRecordsFeedNothingBack : Prop :=
  ∀ s : State,
    (∀ (p : Inputs) (o : Outputs), step { s with ports := p, out := o } = step s) ∧
    (∀ (t : State) (f : Option Fault), step s = .next t →
      step { s with fault := f } =
        .next { t with fault := if raises t.ports then some .cmdError else f })

/-- What can be seen of the two registers that have no plain read (R20). `last_state` shows through no port in a cycle that performs no
SAMPLE, nor through the counters such a cycle leaves. `delta` shows through no port, nor through the other registers, in any cycle, a
SAMPLE in it or not, but for one that performs GET_DELTA. And a cycle that performs no SAMPLE can give `delta` no other value than 0. A
reset cycle performs neither SAMPLE nor GET_DELTA, whatever `tick` and `cmd` are in it (R97). -/
def Obligations.LastStateIsNotReadable : Prop :=
  ∀ s t : State, step s = .next t →
    (t.ports.rst = true ∨ t.ports.tick = false →
      ∀ l : LineState, ∃ t', step { s with lastState := l } = .next t' ∧ t'.out = t.out ∧
        t'.position = t.position ∧ t'.delta = t.delta) ∧
    (t.ports.rst = true ∨ t.ports.cmd ≠ 0b010 →
      ∀ d : Delta, ∃ t', step { s with delta := d } = .next t' ∧ t'.out = t.out ∧
        t'.lastState = t.lastState ∧ t'.position = t.position) ∧
    (t.ports.rst = true ∨ t.ports.tick = false → t.delta = s.delta ∨ t.delta = 0)

/-- No cycle changes `DELTA_MODE`, whatever it carries (R8: it never changes while the block runs; that it stands in the state is log
entry 2). -/
def Obligations.DeltaModeNeverChanges : Prop :=
  ∀ s t : State, step s = .next t → t.deltaMode = s.deltaMode

/-- A cycle that forgets nothing counts its step into `position`; and while the step passes no bound of `delta`, what the cycle gives to
the host through GET_DELTA plus what it leaves in `delta` is what was there plus the step (R35, R58, R65, R70). This is one cycle of the
two sums below, a cycle with a reserved code included (R47). -/
def Obligations.EveryCycleCountsItsStep : Prop :=
  ∀ s t : State, step s = .next t → Keeps s t →
    t.position = s.position + BitVec.ofInt 16 (counted s t) ∧
    (InBounds s t → consumed s t + t.delta.toInt = s.delta.toInt + counted s t)

/-- Every cycle leaves a consistent record: outputs as R44 and R46 say, `last_state` as R15 says, the register values that the
cycle's operation forces, and an `err` recorded in the model's CmdError record (R95; log entry 4, DEDUCED). -/
def Obligations.StepKeepsTheRecordConsistent : Prop :=
  ∀ s t : State, Consistent s → step s = .next t → Consistent t

/-! ## Runs -/

/-- R95's premise can be read off the state a run ends in: a run is safe exactly if nothing is recorded at its end, and exactly if
nothing was recorded before it and none of its cycles raises a CmdError (R95; log entry 4, DEDUCED). -/
def Obligations.SafeRunIsReadOffTheRecord : Prop :=
  ∀ (n : Nat) (s t : State), runSteps n s = .next t →
    (SafeRun n s ↔ CmdErrorFree t) ∧
    (SafeRun n s ↔ CmdErrorFree s ∧ HoldsAlong (fun _ u => raises u.ports = false) n s)

/-- `position` after a run that sets it nowhere is what it was plus the sum of all steps, modulo 2^16; no step is lost to a host operation
or to saturation (part 4 of the test vectors, from R65). The run raises no CmdError (R95). -/
def Obligations.PositionIsTheSumOfSteps : Prop :=
  ∀ (n : Nat) (s t : State), runSteps n s = .next t → SafeRun n s → HoldsAlong Keeps n s →
    t.position = s.position + BitVec.ofInt 16 (sumOver counted n s)

/-- While no step passes a bound of `delta`, what GET_DELTA has answered plus what is left in `delta` is what was there plus the sum of all
steps: no step is lost or counted twice between the read and the clear (R35). The run raises no CmdError (R95). -/
def Obligations.ConsumedDeltaIsConserved : Prop :=
  ∀ (n : Nat) (s t : State), runSteps n s = .next t → SafeRun n s → HoldsAlong Keeps n s →
    HoldsAlong InBounds n s →
    sumOver consumed n s + t.delta.toInt = s.delta.toInt + sumOver counted n s

/-- `TURN+ k` from the present line state: `position` gains `k` modulo 2^16; `delta` gains `k` up to +127, or modulo 2^8 in a `WRAP`
build (R66, R67, R105, R106; 200 steps from 0 leave 127). Premise of R95: `SafeRun`. -/
def Obligations.TurningUpCountsAndSaturates : Prop :=
  ∀ (k : Nat) (s : State), SafeRun k (loadTrace (turnUp k s.lastState) s) → ∃ t,
    runSteps k (loadTrace (turnUp k s.lastState) s) = .next t ∧
    t.position = s.position + BitVec.ofNat 16 k ∧
    (s.deltaMode = .saturate → t.delta.toInt = min 127 (s.delta.toInt + k)) ∧
    (s.deltaMode = .wrap → t.delta = s.delta + BitVec.ofNat 8 k)

/-- `TURN- k` from the present line state, the other way; the lower bound is -128 (R66, R67, R105, R106). Premise of R95:
`SafeRun`. -/
def Obligations.TurningDownCountsAndSaturates : Prop :=
  ∀ (k : Nat) (s : State), SafeRun k (loadTrace (turnDown k s.lastState) s) → ∃ t,
    runSteps k (loadTrace (turnDown k s.lastState) s) = .next t ∧
    t.position = s.position - BitVec.ofNat 16 k ∧
    (s.deltaMode = .saturate → t.delta.toInt = max (-128) (s.delta.toInt - k)) ∧
    (s.deltaMode = .wrap → t.delta = s.delta - BitVec.ofNat 8 k)

/-- `HOLD k` counts nothing and leaves all three registers (R54, R62). Premise of R95: `SafeRun`. -/
def Obligations.HoldingCountsNothing : Prop :=
  ∀ (k : Nat) (s : State), SafeRun k (loadTrace (holdTrace k s.lastState) s) → ∃ t,
    runSteps k (loadTrace (holdTrace k s.lastState) s) = .next t ∧ registers t = registers s

/-- If the sampler keeps the duty of R103, `position` follows the knob: whatever places it visits, the count moves by the
difference of its last place and its first, modulo 2^16. Premise of R95: `SafeRun`. -/
def Obligations.PositionFollowsTheKnob : Prop :=
  ∀ (m : Int) (places : List Int) (s : State),
    s.lastState = linesAtPlace m → RateKept m places →
    s.pending = places.map (fun p => .settled (sampleAtPlace p)) → SafeRun places.length s →
    ∃ t, runSteps places.length s = .next t ∧
      t.lastState = linesAtPlace (places.getLastD m) ∧
      t.position = s.position + BitVec.ofInt 16 (places.getLastD m - m)
end

