-- ==== Sys2Proof/Laws/State.lean ====
section
/-! SUPPORT. What each register write leaves in each field: one lemma per field per update, so that no proof unfolds a record
update. -/

namespace Sys2Proof.Machine

variable (s : State)

@[simp] theorem setLastState_lastState (v : LineState) : (s.setLastState v).lastState = v := rfl
@[simp] theorem setLastState_position (v : LineState) : (s.setLastState v).position = s.position := rfl
@[simp] theorem setLastState_delta (v : LineState) : (s.setLastState v).delta = s.delta := rfl
@[simp] theorem setLastState_deltaMode (v : LineState) : (s.setLastState v).deltaMode = s.deltaMode := rfl
@[simp] theorem setLastState_ports (v : LineState) : (s.setLastState v).ports = s.ports := rfl
@[simp] theorem setLastState_out (v : LineState) : (s.setLastState v).out = s.out := rfl
@[simp] theorem setLastState_fault (v : LineState) : (s.setLastState v).fault = s.fault := rfl
@[simp] theorem setLastState_pending (v : LineState) : (s.setLastState v).pending = s.pending := rfl
@[simp] theorem setLastState_draws (v : LineState) : (s.setLastState v).draws = s.draws := rfl

@[simp] theorem setPosition_lastState (v : Count) : (s.setPosition v).lastState = s.lastState := rfl
@[simp] theorem setPosition_position (v : Count) : (s.setPosition v).position = v := rfl
@[simp] theorem setPosition_delta (v : Count) : (s.setPosition v).delta = s.delta := rfl
@[simp] theorem setPosition_deltaMode (v : Count) : (s.setPosition v).deltaMode = s.deltaMode := rfl
@[simp] theorem setPosition_ports (v : Count) : (s.setPosition v).ports = s.ports := rfl
@[simp] theorem setPosition_out (v : Count) : (s.setPosition v).out = s.out := rfl
@[simp] theorem setPosition_fault (v : Count) : (s.setPosition v).fault = s.fault := rfl
@[simp] theorem setPosition_pending (v : Count) : (s.setPosition v).pending = s.pending := rfl
@[simp] theorem setPosition_draws (v : Count) : (s.setPosition v).draws = s.draws := rfl

@[simp] theorem setDelta_lastState (v : Delta) : (s.setDelta v).lastState = s.lastState := rfl
@[simp] theorem setDelta_position (v : Delta) : (s.setDelta v).position = s.position := rfl
@[simp] theorem setDelta_delta (v : Delta) : (s.setDelta v).delta = v := rfl
@[simp] theorem setDelta_deltaMode (v : Delta) : (s.setDelta v).deltaMode = s.deltaMode := rfl
@[simp] theorem setDelta_ports (v : Delta) : (s.setDelta v).ports = s.ports := rfl
@[simp] theorem setDelta_out (v : Delta) : (s.setDelta v).out = s.out := rfl
@[simp] theorem setDelta_fault (v : Delta) : (s.setDelta v).fault = s.fault := rfl
@[simp] theorem setDelta_pending (v : Delta) : (s.setDelta v).pending = s.pending := rfl
@[simp] theorem setDelta_draws (v : Delta) : (s.setDelta v).draws = s.draws := rfl

@[simp] theorem setOut_lastState (v : Outputs) : (s.setOut v).lastState = s.lastState := rfl
@[simp] theorem setOut_position (v : Outputs) : (s.setOut v).position = s.position := rfl
@[simp] theorem setOut_delta (v : Outputs) : (s.setOut v).delta = s.delta := rfl
@[simp] theorem setOut_deltaMode (v : Outputs) : (s.setOut v).deltaMode = s.deltaMode := rfl
@[simp] theorem setOut_ports (v : Outputs) : (s.setOut v).ports = s.ports := rfl
@[simp] theorem setOut_out (v : Outputs) : (s.setOut v).out = v := rfl
@[simp] theorem setOut_fault (v : Outputs) : (s.setOut v).fault = s.fault := rfl
@[simp] theorem setOut_pending (v : Outputs) : (s.setOut v).pending = s.pending := rfl
@[simp] theorem setOut_draws (v : Outputs) : (s.setOut v).draws = s.draws := rfl

@[simp] theorem setPorts_lastState (v : Inputs) : (s.setPorts v).lastState = s.lastState := rfl
@[simp] theorem setPorts_position (v : Inputs) : (s.setPorts v).position = s.position := rfl
@[simp] theorem setPorts_delta (v : Inputs) : (s.setPorts v).delta = s.delta := rfl
@[simp] theorem setPorts_deltaMode (v : Inputs) : (s.setPorts v).deltaMode = s.deltaMode := rfl
@[simp] theorem setPorts_ports (v : Inputs) : (s.setPorts v).ports = v := rfl
@[simp] theorem setPorts_out (v : Inputs) : (s.setPorts v).out = s.out := rfl
@[simp] theorem setPorts_fault (v : Inputs) : (s.setPorts v).fault = s.fault := rfl
@[simp] theorem setPorts_pending (v : Inputs) : (s.setPorts v).pending = s.pending := rfl
@[simp] theorem setPorts_draws (v : Inputs) : (s.setPorts v).draws = s.draws := rfl

@[simp] theorem noResponse_lastState : (noResponse s).lastState = s.lastState := rfl
@[simp] theorem noResponse_position : (noResponse s).position = s.position := rfl
@[simp] theorem noResponse_delta : (noResponse s).delta = s.delta := rfl
@[simp] theorem noResponse_deltaMode : (noResponse s).deltaMode = s.deltaMode := rfl
@[simp] theorem noResponse_ports : (noResponse s).ports = s.ports := rfl
@[simp] theorem noResponse_out : (noResponse s).out = quietOutputs := rfl
@[simp] theorem noResponse_fault : (noResponse s).fault = s.fault := rfl
@[simp] theorem noResponse_pending : (noResponse s).pending = s.pending := rfl
@[simp] theorem noResponse_draws : (noResponse s).draws = s.draws := rfl

@[simp] theorem raiseCmdError_lastState : (raiseCmdError s).lastState = s.lastState := rfl
@[simp] theorem raiseCmdError_position : (raiseCmdError s).position = s.position := rfl
@[simp] theorem raiseCmdError_delta : (raiseCmdError s).delta = s.delta := rfl
@[simp] theorem raiseCmdError_deltaMode : (raiseCmdError s).deltaMode = s.deltaMode := rfl
@[simp] theorem raiseCmdError_ports : (raiseCmdError s).ports = s.ports := rfl
@[simp] theorem raiseCmdError_out : (raiseCmdError s).out = cmdErrorOutputs := rfl
@[simp] theorem raiseCmdError_fault : (raiseCmdError s).fault = some .cmdError := rfl
@[simp] theorem raiseCmdError_pending : (raiseCmdError s).pending = s.pending := rfl
@[simp] theorem raiseCmdError_draws : (raiseCmdError s).draws = s.draws := rfl

@[simp] theorem respond_lastState (v : Count) : (respond v s).lastState = s.lastState := rfl
@[simp] theorem respond_position (v : Count) : (respond v s).position = s.position := rfl
@[simp] theorem respond_delta (v : Count) : (respond v s).delta = s.delta := rfl
@[simp] theorem respond_deltaMode (v : Count) : (respond v s).deltaMode = s.deltaMode := rfl
@[simp] theorem respond_ports (v : Count) : (respond v s).ports = s.ports := rfl
@[simp] theorem respond_out (v : Count) : (respond v s).out = respondOutputs v := rfl
@[simp] theorem respond_fault (v : Count) : (respond v s).fault = s.fault := rfl
@[simp] theorem respond_pending (v : Count) : (respond v s).pending = s.pending := rfl
@[simp] theorem respond_draws (v : Count) : (respond v s).draws = s.draws := rfl

@[simp] theorem seedFromLines_lastState : (seedFromLines s).lastState = presentLines s := rfl
@[simp] theorem seedFromLines_position : (seedFromLines s).position = 0 := rfl
@[simp] theorem seedFromLines_delta : (seedFromLines s).delta = 0 := rfl
@[simp] theorem seedFromLines_deltaMode : (seedFromLines s).deltaMode = s.deltaMode := rfl
@[simp] theorem seedFromLines_ports : (seedFromLines s).ports = s.ports := rfl
@[simp] theorem seedFromLines_out : (seedFromLines s).out = s.out := rfl
@[simp] theorem seedFromLines_fault : (seedFromLines s).fault = s.fault := rfl
@[simp] theorem seedFromLines_pending : (seedFromLines s).pending = s.pending := rfl
@[simp] theorem seedFromLines_draws : (seedFromLines s).draws = s.draws := rfl

@[simp] theorem placeInputs_lastState (inp : Inputs) : (placeInputs inp s).lastState = s.lastState := rfl
@[simp] theorem placeInputs_position (inp : Inputs) : (placeInputs inp s).position = s.position := rfl
@[simp] theorem placeInputs_delta (inp : Inputs) : (placeInputs inp s).delta = s.delta := rfl
@[simp] theorem placeInputs_deltaMode (inp : Inputs) : (placeInputs inp s).deltaMode = s.deltaMode := rfl
@[simp] theorem placeInputs_ports (inp : Inputs) : (placeInputs inp s).ports = s.ports := rfl
@[simp] theorem placeInputs_out (inp : Inputs) : (placeInputs inp s).out = s.out := rfl
@[simp] theorem placeInputs_fault (inp : Inputs) : (placeInputs inp s).fault = s.fault := rfl
@[simp] theorem placeInputs_pending (inp : Inputs) : (placeInputs inp s).pending = .settled inp :: s.pending.tail := rfl
@[simp] theorem placeInputs_draws (inp : Inputs) : (placeInputs inp s).draws = s.draws := rfl

/-- Two states are equal when their fields are. -/
theorem State.eq_of_fields {s t : State} (h₁ : s.lastState = t.lastState) (h₂ : s.position = t.position)
    (h₃ : s.delta = t.delta) (h₄ : s.deltaMode = t.deltaMode) (h₅ : s.ports = t.ports)
    (h₆ : s.out = t.out) (h₇ : s.fault = t.fault) (h₈ : s.pending = t.pending)
    (h₉ : s.draws = t.draws) : s = t := by
  cases s; cases t; simp_all

end Sys2Proof.Machine
end

