-- ==== Sys2Proof/Laws/Decode.lean ====
section
/-! SUPPORT. The host port's two fields, taken apart and put together (R40). -/

namespace Sys2Proof

/-- Bit by bit, `hreq` is `cmd` above `wdata`. -/
theorem hreqOf_getLsbD (c : Cmd) (v : Count) (i : Nat) :
    (hreqOf c v).getLsbD i = if i < 16 then v.getLsbD i else c.getLsbD (i - 16) :=
  (BitVec.getLsbD_append (x := c) (y := v)).trans (by by_cases h : i < 16 <;> simp [h])

/-- As a number, `hreq` is `cmd * 2^16 + wdata`. -/
theorem hreqOf_toNat (c : Cmd) (v : Count) : (hreqOf c v).toNat = c.toNat * 65536 + v.toNat := by
  have h : (hreqOf c v).toNat = c.toNat <<< 16 ||| v.toNat := BitVec.toNat_append c v
  rw [h, Nat.shiftLeft_eq, Nat.mul_comm, ← Nat.two_pow_add_eq_or_of_lt v.isLt]

@[simp] theorem cmdField_hreqOf (c : Cmd) (v : Count) : cmdField (hreqOf c v) = c := by
  apply BitVec.eq_of_getLsbD_eq
  intro i hi
  simp [cmdField, hreqOf_getLsbD, hi]

@[simp] theorem wdataField_hreqOf (c : Cmd) (v : Count) : wdataField (hreqOf c v) = v := by
  apply BitVec.eq_of_getLsbD_eq
  intro i hi
  simp [wdataField, hreqOf_getLsbD, hi]

/-- A host word is its two fields. -/
@[simp] theorem hreqOf_fields (w : HReq) : hreqOf (cmdField w) (wdataField w) = w := by
  apply BitVec.eq_of_getLsbD_eq
  intro i hi
  simp only [hreqOf_getLsbD, cmdField, wdataField, BitVec.getLsbD_extractLsb']
  by_cases h : i < 16
  · simp [h]
  · simp [h, show i - 16 < 3 by omega, show 16 + (i - 16) = i by omega]

/-- The eight codes, and nothing else (R49). -/
theorem cmd_cases (c : Cmd) : c = 0b000 ∨ c = 0b001 ∨ c = 0b010 ∨ c = 0b011 ∨
    c = 0b100 ∨ c = 0b101 ∨ c = 0b110 ∨ c = 0b111 := by
  revert c; decide

/-- Every host word decodes to an operation of the host port. -/
theorem decodeH_format (w : HReq) : (decodeH w).format = .H := by
  unfold decodeH
  repeat' split
  all_goals rfl

/-- A number that fits the host port decodes as the host word it is. -/
theorem decode_host_of_lt {n : Nat} (h : n < 2 ^ 19) :
    decode ⟨.H, n⟩ = .ok (decodeH (BitVec.ofNat 19 n)) := by
  have h' : n < 524288 := h
  simp [decode, PortWord.wf, Format.width, h']

/-- A number that does not fit the host port is refused by name. -/
theorem decode_host_of_le {n : Nat} (h : 2 ^ 19 ≤ n) : decode ⟨.H, n⟩ = .error .tooWide := by
  have h' : ¬ n < 524288 := by omega
  simp [decode, PortWord.wf, Format.width, h']

theorem decode_host_word (w : HReq) : decode ⟨.H, w.toNat⟩ = .ok (decodeH w) := by
  rw [decode_host_of_lt w.isLt, BitVec.ofNat_toNat, BitVec.setWidth_eq]

/-- The sampler port has two words (R39, R51). -/
theorem decode_sampler (n : Nat) : decode ⟨.T, n⟩ =
    if n = 0 then .error .noSample else if n = 1 then .ok .sample else .error .tooWide := by
  by_cases h : n < 2
  · have : n = 0 ∨ n = 1 := by omega
    rcases this with rfl | rfl <;> rfl
  · have h₀ : n ≠ 0 := by omega
    have h₁ : n ≠ 1 := by omega
    simp [decode, PortWord.wf, Format.width, h, h₀, h₁]

/-- A host operation's own code and operand decode to it. -/
theorem decodeH_of_encoded (i : Instr) (h : i.format = .H) : decodeH (hreqOf i.cmd i.wdata) = i := by
  cases i <;> simp [decodeH, Instr.cmd, Instr.wdata] at *
  cases h

/-- What a host word decodes to has the word's code, and SET_POSITION the word's operand. -/
theorem decodeH_fields (w : HReq) : (decodeH w).cmd = cmdField w ∧
    ∀ v, decodeH w = .setPosition v → v = wdataField w := by
  unfold decodeH
  rcases cmd_cases (cmdField w) with h | h | h | h | h | h | h | h <;> simp [h, Instr.cmd]

end Sys2Proof
end

