-- ==== Sys2Proof/Laws/Ops.lean ====
section
/-! SUPPORT. One law per shared operation: line assembly, the table, the counters' arithmetic, and counting a step. -/

namespace Sys2Proof.Machine

theorem lineState_bit_a (a b : Bool) : (lineState a b).getLsbD 1 = a := by
  cases a <;> cases b <;> rfl

theorem lineState_bit_b (a b : Bool) : (lineState a b).getLsbD 0 = b := by
  cases a <;> cases b <;> rfl

@[simp] theorem lineState_getElem_one (a b : Bool) : (lineState a b)[1] = a := by
  cases a <;> cases b <;> rfl

@[simp] theorem lineState_getElem_zero (a b : Bool) : (lineState a b)[0] = b := by
  cases a <;> cases b <;> rfl

/-- A line state is its two bits. -/
theorem lineState_of_bits (l : LineState) : lineState (l.getLsbD 1) (l.getLsbD 0) = l := by
  revert l; decide

/-- The table is the rotation of R61 (and 0 off it: R62, R63). -/
theorem stepOf_eq_turnOf (l n : LineState) : stepOf l n = Safety.turnOf l n := by
  revert l n; decide

/-- A step is -1, 0 or +1. -/
theorem turnOf_cases (l n : LineState) :
    Safety.turnOf l n = -1 ∨ Safety.turnOf l n = 0 ∨ Safety.turnOf l n = 1 := by
  revert l n; decide

@[simp] theorem turnOf_self (l : LineState) : Safety.turnOf l l = 0 := by revert l; decide

@[simp] theorem turnOf_lineAfter (l : LineState) : Safety.turnOf l (lineAfter l) = 1 := by
  revert l; decide

@[simp] theorem turnOf_lineBefore (l : LineState) : Safety.turnOf l (lineBefore l) = -1 := by
  revert l; decide

/-- Going back undoes a step. -/
theorem turnOf_back (l n : LineState) : Safety.turnOf n l = - Safety.turnOf l n := by
  revert l n; decide

/-- `wrap16` adds modulo 2^16. -/
theorem stepPosition_eq_add (p : Count) (k : Int) : stepPosition p k = p + BitVec.ofInt 16 k := by
  simp [stepPosition, wrap16, BitVec.ofInt_add]

/-- `wrap16` as the signed formula of `00_scope.md` section 6. -/
theorem stepPosition_toInt (p : Count) (k : Int) :
    (stepPosition p k).toInt = (p.toInt + k + 32768) % 65536 - 32768 := by
  simp only [stepPosition, wrap16, BitVec.toInt_ofInt, Int.bmod_def]
  omega

/-- `wrap8` as the signed formula of `00_scope.md` section 6. -/
theorem stepDelta_wrap_toInt (d : Delta) (k : Int) :
    (stepDelta .wrap d k).toInt = (d.toInt + k + 128) % 256 - 128 := by
  simp only [stepDelta, wrap8, BitVec.toInt_ofInt, Int.bmod_def]
  omega

/-- `wrap8` adds modulo 2^8. -/
theorem stepDelta_wrap_eq_add (d : Delta) (k : Int) : stepDelta .wrap d k = d + BitVec.ofInt 8 k := by
  simp [stepDelta, wrap8, BitVec.ofInt_add]

/-- `sat8` is a clamp to -128 and +127. -/
theorem stepDelta_saturate_toInt (d : Delta) (k : Int) :
    (stepDelta .saturate d k).toInt = max (-128) (min 127 (d.toInt + k)) := by
  simp only [stepDelta, sat8]
  split
  · simp; omega
  · split
    · simp; omega
    · simp only [BitVec.toInt_ofInt, Int.bmod_def]; omega

/-- Within the bounds both builds count exactly. -/
theorem stepDelta_toInt_of_inBounds (mode : DeltaMode) (d : Delta) (k : Int)
    (lo : -128 ≤ d.toInt + k) (hi : d.toInt + k ≤ 127) : (stepDelta mode d k).toInt = d.toInt + k := by
  cases mode
  · rw [stepDelta_saturate_toInt]; omega
  · rw [stepDelta_wrap_toInt]; omega

@[simp] theorem stepPosition_zero (p : Count) : stepPosition p 0 = p := by simp [stepPosition_eq_add]

@[simp] theorem stepDelta_zero (mode : DeltaMode) (d : Delta) : stepDelta mode d 0 = d := by
  have := BitVec.le_toInt d
  have := BitVec.toInt_lt (x := d)
  exact BitVec.eq_of_toInt_eq
    (by simpa using stepDelta_toInt_of_inBounds mode d 0 (by omega) (by omega))

/-- A step of 0 leaves both counters, so counting it is no different from adding it. -/
theorem countStep_eq (k : Int) (s : State) :
    countStep k s =
      (s.setPosition (stepPosition s.position k)).setDelta
        (stepDelta s.deltaMode s.delta k) := by
  unfold countStep
  split
  next h =>
    subst h; simp [State.setPosition, State.setDelta]
  next => rfl

end Sys2Proof.Machine
end

