-- ==== Sys2Proof/Laws/Exec.lean ====
section
/-! SUPPORT. One law per meaning, and the frame that all meanings share. -/

namespace Sys2Proof.Machine

/-- The state a SAMPLE leaves (R58). -/
theorem exec_sample_eq (s : State) :
    exec .sample s = .next
      (((s.setPosition (stepPosition s.position (Safety.turnOf s.lastState (presentLines s)))).setDelta
        (stepDelta s.deltaMode s.delta (Safety.turnOf s.lastState (presentLines s)))).setLastState
          (presentLines s)) := by
  simp [exec, execSample, countStep_eq, stepOf_eq_turnOf]

/-- What every operation leaves alone: the build, the inputs and the trace. -/
theorem exec_next_frame (i : Instr) (s : State) :
    ∃ t, exec i s = .next t ∧ t.deltaMode = s.deltaMode ∧ t.ports = s.ports ∧
      t.pending = s.pending ∧ t.draws = s.draws := by
  cases i
  case sample => exact ⟨_, exec_sample_eq s, rfl, rfl, rfl, rfl⟩
  all_goals exact ⟨_, rfl, rfl, rfl, rfl, rfl⟩

/-- Only SAMPLE and INIT write `last_state` (R13). -/
theorem exec_lastState (i : Instr) (s t : State) (h : exec i s = .next t) :
    t.lastState = if i = .sample ∨ i = .init then presentLines s else s.lastState := by
  cases i
  case sample => rw [exec_sample_eq] at h; cases h; simp
  all_goals cases h; simp

/-- Only the reserved codes touch the model's record of CmdErrors (R82, R83). -/
theorem exec_fault (i : Instr) (s t : State) (h : exec i s = .next t) :
    t.fault = if i = .rsvd6 ∨ i = .rsvd7 then some .cmdError else s.fault := by
  cases i
  case sample => rw [exec_sample_eq] at h; cases h; simp
  all_goals cases h; simp

end Sys2Proof.Machine
end

