-- ==== Sys2Proof/Laws/PerInstr.lean ====
section
/-! SUPPORT. Family `RowMatch`: every operation's encoded word fits its format and matches its row of the opcode table (R45, R47). -/

namespace Sys2Proof.Laws

/-- The `match` column of the operation's row in the opcode table. -/
def rowMatch : Instr → Nat
  | .sample => 0x1
  | .nop => 0x00000
  | .init => 0x10000
  | .getDelta => 0x20000
  | .getPosition => 0x30000
  | .setPosition _ => 0x40000
  | .button => 0x50000
  | .rsvd6 => 0x60000
  | .rsvd7 => 0x70000

/-- The encoded word of `i` fits its format and matches its row. -/
def RowMatch.Statement (i : Instr) : Prop :=
  (encode i).wf = true ∧ (encode i).format = i.format ∧
    (encode i).bits = rowMatch i + (if i.format = .H then i.wdata.toNat else 0)

theorem RowMatch.sample : RowMatch.Statement .sample := ⟨rfl, rfl, rfl⟩
theorem RowMatch.nop : RowMatch.Statement .nop := ⟨rfl, rfl, rfl⟩
theorem RowMatch.init : RowMatch.Statement .init := ⟨rfl, rfl, rfl⟩
theorem RowMatch.getDelta : RowMatch.Statement .getDelta := ⟨rfl, rfl, rfl⟩
theorem RowMatch.getPosition : RowMatch.Statement .getPosition := ⟨rfl, rfl, rfl⟩
theorem RowMatch.setPosition (v : Count) : RowMatch.Statement (.setPosition v) := by
  have h := v.isLt
  have bits : (hreqOf 0b100 v).toNat = 0x40000 + v.toNat := by rw [hreqOf_toNat]; rfl
  refine ⟨?_, rfl, ?_⟩
  · simp only [encode, Instr.format, Instr.cmd, Instr.wdata, PortWord.wf, bits, Format.width]
    simp; omega
  · simpa [encode, Instr.format, Instr.cmd, Instr.wdata, rowMatch] using bits
theorem RowMatch.button : RowMatch.Statement .button := ⟨rfl, rfl, rfl⟩
theorem RowMatch.rsvd6 : RowMatch.Statement .rsvd6 := ⟨rfl, rfl, rfl⟩
theorem RowMatch.rsvd7 : RowMatch.Statement .rsvd7 := ⟨rfl, rfl, rfl⟩

end Sys2Proof.Laws
end

