-- ==== Sys2Proof/Laws/Step.lean ====
section
/-! SUPPORT. What a cycle and a step can do, said once: a cycle answers a next state in one of two ways, and a step is a cycle on the
inputs it takes. -/

namespace Sys2Proof.Machine

/-- The state after the sampler's part of a cycle. -/
def sampled (s : State) : State :=
  if s.ports.tick then
    (countStep (stepOf s.lastState (presentLines s)) s).setLastState (presentLines s)
  else s

theorem sampled_of_tick {s : State} (h : s.ports.tick = true) :
    sampled s = ((s.setPosition (stepPosition s.position (Safety.turnOf s.lastState (presentLines s)))).setDelta
        (stepDelta s.deltaMode s.delta (Safety.turnOf s.lastState (presentLines s)))).setLastState
          (presentLines s) := by
  simp [sampled, h, countStep_eq, stepOf_eq_turnOf]

theorem sampled_of_no_tick {s : State} (h : s.ports.tick = false) : sampled s = s := by
  simp [sampled, h]

/-- The sampler writes the three registers and nothing else. -/
theorem sampled_frame (s : State) : (sampled s).deltaMode = s.deltaMode ∧ (sampled s).ports = s.ports ∧
    (sampled s).out = s.out ∧ (sampled s).fault = s.fault ∧ (sampled s).pending = s.pending ∧
    (sampled s).draws = s.draws := by
  by_cases h : s.ports.tick = true
  · rw [sampled_of_tick h]; exact ⟨rfl, rfl, rfl, rfl, rfl, rfl⟩
  · rw [sampled_of_no_tick (by simpa using h)]; exact ⟨rfl, rfl, rfl, rfl, rfl, rfl⟩

@[simp] theorem sampled_deltaMode (s : State) : (sampled s).deltaMode = s.deltaMode := (sampled_frame s).1
@[simp] theorem sampled_ports (s : State) : (sampled s).ports = s.ports := (sampled_frame s).2.1
@[simp] theorem sampled_out (s : State) : (sampled s).out = s.out := (sampled_frame s).2.2.1
@[simp] theorem sampled_fault (s : State) : (sampled s).fault = s.fault := (sampled_frame s).2.2.2.1
@[simp] theorem sampled_pending (s : State) : (sampled s).pending = s.pending := (sampled_frame s).2.2.2.2.1
@[simp] theorem sampled_draws (s : State) : (sampled s).draws = s.draws := (sampled_frame s).2.2.2.2.2

/-- The sampler's part always answers (R69). -/
theorem samplerPhase_eq (s : State) : samplerPhase s = .next (sampled s) := by
  cases h : s.ports.tick <;> simp [samplerPhase, decodeT, sampled, exec, execSample, h]

/-- A cycle under reset (R96, R97). -/
theorem cycle_of_rst (inp : Inputs) (s : State) (h : inp.rst = true) :
    cycle inp s = .next (noResponse (seedFromLines (s.setPorts inp))) := by
  simp [cycle, resetPhase, h]

/-- A cycle without reset: the host operation on what the sampler left (R29, R30). -/
theorem cycle_of_no_rst (inp : Inputs) (s : State) (h : inp.rst = false) :
    cycle inp s = exec (decodeH inp.hreq) (sampled (s.setPorts inp)) := by
  simp [cycle, h, samplerPhase_eq, andThen, hostPhase]

/-- The host operation by its code. -/
theorem decodeH_hreq (inp : Inputs) : decodeH inp.hreq =
    if inp.cmd = 0b000 then .nop else if inp.cmd = 0b001 then .init
    else if inp.cmd = 0b010 then .getDelta else if inp.cmd = 0b011 then .getPosition
    else if inp.cmd = 0b100 then .setPosition inp.wdata else if inp.cmd = 0b101 then .button
    else if inp.cmd = 0b110 then .rsvd6 else .rsvd7 := by
  simp [decodeH, Inputs.hreq]

/-- What the host port's operation leaves, field by field, by its code (R55, R70, R72, R73, R77, R80, R82). -/
def hosted (inp : Inputs) (u : State) : State :=
  { u with
    lastState := if inp.cmd = 0b001 then presentLines u else u.lastState
    position := if inp.cmd = 0b001 then 0 else if inp.cmd = 0b100 then inp.wdata else u.position
    delta := if inp.cmd = 0b001 ∨ inp.cmd = 0b010 ∨ inp.cmd = 0b100 then 0 else u.delta
    out := if inp.cmd = 0b010 then respondOutputs (sext16 u.delta)
      else if inp.cmd = 0b011 then respondOutputs u.position
      else if inp.cmd = 0b101 then respondOutputs (zext16 (pressed u))
      else if inp.cmd = 0b110 ∨ inp.cmd = 0b111 then cmdErrorOutputs else quietOutputs
    fault := if inp.cmd = 0b110 ∨ inp.cmd = 0b111 then some .cmdError else u.fault }

theorem exec_host_eq (inp : Inputs) (u : State) : exec (decodeH inp.hreq) u = .next (hosted inp u) := by
  rw [decodeH_hreq]
  unfold hosted
  rcases cmd_cases inp.cmd with h | h | h | h | h | h | h | h <;> simp [h] <;> rfl

/-- What a whole cycle leaves. -/
def cycled (inp : Inputs) (s : State) : State :=
  if inp.rst then noResponse (seedFromLines (s.setPorts inp))
  else hosted inp (sampled (s.setPorts inp))

/-- The cycle function is total, and this is what it answers (R29). -/
theorem cycle_eq (inp : Inputs) (s : State) : cycle inp s = .next (cycled inp s) := by
  cases h : inp.rst
  · rw [cycle_of_no_rst inp s h, exec_host_eq]; simp [cycled, h]
  · rw [cycle_of_rst inp s h]; simp [cycled, h]

theorem cycled_of_rst {inp : Inputs} {s : State} (h : inp.rst = true) :
    cycled inp s = noResponse (seedFromLines (s.setPorts inp)) := by simp [cycled, h]

theorem cycled_of_no_rst {inp : Inputs} {s : State} (h : inp.rst = false) :
    cycled inp s = hosted inp (sampled (s.setPorts inp)) := by simp [cycled, h]

@[simp] theorem cycled_deltaMode (inp : Inputs) (s : State) : (cycled inp s).deltaMode = s.deltaMode := by
  cases h : inp.rst <;> simp [cycled, h, hosted]
@[simp] theorem cycled_ports (inp : Inputs) (s : State) : (cycled inp s).ports = inp := by
  cases h : inp.rst <;> simp [cycled, h, hosted]
@[simp] theorem cycled_pending (inp : Inputs) (s : State) : (cycled inp s).pending = s.pending := by
  cases h : inp.rst <;> simp [cycled, h, hosted]
@[simp] theorem cycled_draws (inp : Inputs) (s : State) : (cycled inp s).draws = s.draws := by
  cases h : inp.rst <;> simp [cycled, h, hosted]

theorem step_of_settled {s : State} {inp : Inputs} {rest : List Stimulus}
    (h : s.pending = .settled inp :: rest) : step s = .next (cycled inp { s with pending := rest }) := by
  simp [step, takeStimulus, h, cycle_eq]

theorem step_of_unsettled {s : State} {rest : List Stimulus} (h : s.pending = .unsettled :: rest) :
    step s = .refused .unsettledInputs := by
  simp [step, takeStimulus, h]

theorem step_of_trace_end {s : State} (h : s.pending = []) :
    step s = .next (cycled (Config.freeInputs s.draws) { s with draws := s.draws + 1 }) := by
  simp [step, takeStimulus, h, cycle_eq]

/-- A step whose cycle has stable inputs is that cycle on them, wherever they came from. -/
theorem step_of_takes {s u : State} {inp : Inputs} (h : takeStimulus s = (.settled inp, u)) :
    step s = .next (cycled inp u) := by
  simp [step, h, cycle_eq]

/-- The registers and outputs a cycle leaves depend on the registers before it, the build and the inputs, and on nothing else (R23). -/
theorem cycled_congr (inp : Inputs) {x y : State} (hr : Safety.registers x = Safety.registers y)
    (hm : x.deltaMode = y.deltaMode) :
    Safety.registers (cycled inp x) = Safety.registers (cycled inp y) ∧ (cycled inp x).out = (cycled inp y).out := by
  simp only [Safety.registers, Prod.mk.injEq] at hr
  obtain ⟨hl, hp, hd⟩ := hr
  cases h : inp.rst
  · rw [cycled_of_no_rst h, cycled_of_no_rst h]
    cases hk : inp.tick
    · rw [sampled_of_no_tick hk, sampled_of_no_tick hk]
      simp [hosted, Safety.registers, presentLines, pressed, hl, hp, hd]
    · rw [sampled_of_tick hk, sampled_of_tick hk]
      simp [hosted, Safety.registers, presentLines, pressed, hl, hp, hd, hm]
  · rw [cycled_of_rst h, cycled_of_rst h]
    simp [Safety.registers, presentLines]

/-- A step that answers is a cycle on a state with the same registers, build and record (R23, R37). -/
theorem step_next_is_cycle {s t : State} (h : step s = .next t) :
    ∃ u, t = cycled t.ports u ∧ takeStimulus s = (.settled t.ports, u) ∧
      u.lastState = s.lastState ∧ u.position = s.position ∧ u.delta = s.delta ∧
      u.deltaMode = s.deltaMode ∧ u.fault = s.fault := by
  match hp : s.pending with
  | [] =>
    rw [step_of_trace_end hp] at h; injection h with h; subst h
    exact ⟨{ s with draws := s.draws + 1 }, by simp, by simp [takeStimulus, hp], rfl, rfl, rfl, rfl, rfl⟩
  | .settled inp :: rest =>
    rw [step_of_settled hp] at h; injection h with h; subst h
    exact ⟨{ s with pending := rest }, by simp, by simp [takeStimulus, hp], rfl, rfl, rfl, rfl, rfl⟩
  | .unsettled :: rest =>
    rw [step_of_unsettled hp] at h; cases h

end Sys2Proof.Machine
end

