-- ==== Sys2Proof/Laws/Runs.lean ====
section
/-! SUPPORT. Runs, one cycle at a time. -/

namespace Sys2Proof.Safety

open Sys2Proof.Machine

/-- A run whose next cycle is written down goes on from what that cycle leaves. -/
theorem runSteps_of_settled {s : State} {inp : Inputs} {rest : List Stimulus} (n : Nat)
    (h : s.pending = .settled inp :: rest) :
    runSteps (n + 1) s = runSteps n (cycled inp { s with pending := rest }) := by
  simp only [runSteps, step_of_settled h]; rfl

/-- A run that ends took a first step and went on from there. -/
theorem runSteps_succ_inv {n : Nat} {s t : State} (h : runSteps (n + 1) s = .next t) :
    ∃ u, step s = .next u ∧ runSteps n u = .next t := by
  simp only [runSteps] at h
  match hs : step s with
  | .next u => rw [hs] at h; exact ⟨u, rfl, h⟩
  | .fault e => rw [hs] at h; cases h
  | .refused e => rw [hs] at h; cases h

/-- A property that every step keeps holds at the end of every run that begins with it. -/
theorem runSteps_keeps {P : State → Prop} (kept : ∀ s t, step s = .next t → P s → P t) :
    ∀ (n : Nat) (s t : State), runSteps n s = .next t → P s → P t
  | 0, s, t, h, hs => by cases h; exact hs
  | n + 1, s, t, h, hs => by
    obtain ⟨u, hu, ht⟩ := runSteps_succ_inv h
    exact runSteps_keeps kept n u t ht (kept s u hu hs)

/-- A sum over a run whose first step answers. -/
theorem sumOver_succ {f : State → State → Int} {n : Nat} {s u : State} (h : step s = .next u) :
    sumOver f (n + 1) s = f s u + sumOver f n u := by
  simp [sumOver, h]

/-- A condition along a run whose first step answers. -/
theorem holdsAlong_succ {P : State → State → Prop} {n : Nat} {s u : State} (h : step s = .next u) :
    HoldsAlong P (n + 1) s ↔ P s u ∧ HoldsAlong P n u := by
  simp [HoldsAlong, h]

/-- A safe run starts with nothing recorded and goes on as a safe run. -/
theorem safeRun_succ {n : Nat} {s u : State} (h : step s = .next u) :
    SafeRun (n + 1) s ↔ CmdErrorFree s ∧ SafeRun n u := by
  simp [SafeRun, holdsAlong_succ h]

@[simp] theorem safeRun_zero (s : State) : SafeRun 0 s ↔ CmdErrorFree s := by
  simp [SafeRun, HoldsAlong]

/-- No CmdError is recorded where a safe run begins. -/
theorem SafeRun.start {n : Nat} {s : State} (h : SafeRun n s) : CmdErrorFree s := h.1

/-- No CmdError is recorded where a safe run ends. -/
theorem SafeRun.final : ∀ {n : Nat} {s t : State}, SafeRun n s → runSteps n s = .next t → CmdErrorFree t
  | 0, s, t, h, ht => by cases ht; exact h.1
  | n + 1, s, t, h, ht => by
    obtain ⟨u, hu, hr⟩ := runSteps_succ_inv ht
    exact SafeRun.final ((safeRun_succ hu).1 h).2 hr

end Sys2Proof.Safety
end

