-- ==== Sys2Proof/Tests/Slice0.lean ====
section
/-! SUPPORT. The model's own tests. Expected values are the spec's: its worked examples and the vectors of `95_test_vectors.md`, cited by
their numbers there (I, A, B, G, K, N); decode words are written out from R39, R40, R45 and R47. Then a witness for the hypotheses of every
statement of Certificates/Slice0/Obligations.lean that has any. -/

namespace Sys2Proof.Tests

open Sys2Proof.Machine
open Sys2Proof.Safety

/-- A state with the three registers given and a trace of the inputs given. -/
def stateWith (l : LineState) (p : Count) (d : Delta) (trace : List Inputs)
    (mode : DeltaMode := .saturate) : State :=
  { State.afterReset mode true true with
    lastState := l, position := p, delta := d, pending := trace.map .settled }

/-- The registers and the outputs after one cycle. -/
def afterCycle (s : State) : Option ((LineState × Count × Delta) × Outputs) :=
  (stateOf (step s)).map fun t => (registers t, t.out)

/-! ## Well-formedness: one ill-formed term for each check -/

theorem test_wf_refuses_wide_sampler_word : PortWord.wf ⟨.T, 2⟩ = false := by decide
theorem test_wf_refuses_wide_host_word : PortWord.wf ⟨.H, 0x80000⟩ = false := by decide
theorem test_wf_accepts_full_host_word : PortWord.wf ⟨.H, 0x7FFFF⟩ = true := by decide
theorem test_wf_refuses_sample_as_host_op :
    TraceCycle.hostIsHostOp { host := .sample } = false ∧ TraceCycle.wf { host := .sample } = false := by
  decide
theorem test_wf_refuses_init_without_lines :
    TraceCycle.linesGiven { host := .init, a := some true } = false ∧
      TraceCycle.wf { host := .init, a := some true } = false := by
  decide
theorem test_wf_refuses_button_without_level :
    TraceCycle.buttonGiven { host := .button } = false ∧ TraceCycle.wf { host := .button } = false := by
  decide
theorem test_wf_accepts_trace_cycle :
    TraceCycle.wf { sample := true, host := .setPosition 100, a := some true, b := some true } = true := by
  decide

/-! ## Decoding and encoding -/

theorem test_decode_sample : decode ⟨.T, 0b1⟩ = .ok .sample := by decide
theorem test_decode_no_sample : decode ⟨.T, 0b0⟩ = .error .noSample := by decide
theorem test_decode_too_wide : decode ⟨.H, 0b1_000_0000000000000000⟩ = .error .tooWide := by decide
theorem test_decode_nop : decode ⟨.H, 0b000_1111111111111111⟩ = .ok .nop := by decide
theorem test_decode_init : decode ⟨.H, 0b001_1011111011101111⟩ = .ok .init := by decide
theorem test_decode_get_delta : decode ⟨.H, 0b010_0001001000110100⟩ = .ok .getDelta := by decide
theorem test_decode_get_position : decode ⟨.H, 0b011_0000000000000000⟩ = .ok .getPosition := by decide
theorem test_decode_set_position :
    decode ⟨.H, 0b100_1000000000000001⟩ = .ok (.setPosition 0b1000000000000001) := by decide
theorem test_decode_button : decode ⟨.H, 0b101_0000000000000000⟩ = .ok .button := by decide
theorem test_decode_rsvd6 : decode ⟨.H, 0b110_0000000000000000⟩ = .ok .rsvd6 := by decide
theorem test_decode_rsvd7 : decode ⟨.H, 0b111_0000000000000001⟩ = .ok .rsvd7 := by decide
/-- G10's encoding of `SET_POSITION -5`. -/
theorem test_encode_set_position : encode (.setPosition (-5)) = ⟨.H, 0x4FFFB⟩ := by decide

/-! ## One cycle, from the vectors -/

/-- B8: `position` wraps while `delta` saturates. -/
theorem test_sample_saturates :
    afterCycle (stateWith 0b00 0x7FFF 0x7F [{ tick := true, b := true }]) =
      some ((0b01, 0x8000, 0x7F), ⟨false, 0, false⟩) := by decide
/-- B4 in a `WRAP` build: down from -128. -/
theorem test_sample_wraps :
    afterCycle (stateWith 0b00 (-500) 0x80 [{ tick := true, a := true }] .wrap) =
      some ((0b10, -501, 0x7F), ⟨false, 0, false⟩) := by decide
/-- N2: the lines move between samples, unseen. -/
theorem test_nop_ignores_the_rest :
    afterCycle (stateWith 0b10 7 7 [{ b := true, btnN := false, wdata := 0xFFFF }]) =
      some ((0b10, 7, 7), ⟨false, 0, false⟩) := by decide
/-- I4. -/
theorem test_init :
    afterCycle (stateWith 0b11 (-1) 127 [{ b := true, cmd := 1, wdata := 0xBEEF }]) =
      some ((0b01, 0, 0), ⟨false, 0, false⟩) := by decide
/-- I5: the +1 of 11→10 is counted, then discarded. -/
theorem test_sample_then_init :
    afterCycle (stateWith 0b11 9 9 [{ tick := true, a := true, cmd := 1 }]) =
      some ((0b10, 0, 0), ⟨false, 0, false⟩) := by decide
/-- G4. -/
theorem test_get_delta_at_the_bound :
    afterCycle (stateWith 0b00 0 (-128) [{ cmd := 2 }]) =
      some ((0b00, 0, 0), ⟨true, 0xFF80, false⟩) := by decide
/-- G6: the cycle's step is in the response. -/
theorem test_sample_then_get_delta :
    afterCycle (stateWith 0b10 1 1 [{ tick := true, cmd := 2 }]) =
      some ((0b00, 2, 0), ⟨true, 0x0002, false⟩) := by decide
/-- G8. -/
theorem test_get_position :
    afterCycle (stateWith 0b10 0x8000 5 [{ cmd := 3 }]) =
      some ((0b10, 0x8000, 5), ⟨true, 0x8000, false⟩) := by decide
/-- G9. -/
theorem test_sample_then_get_position :
    afterCycle (stateWith 0b00 2 0 [{ tick := true, b := true, cmd := 3 }]) =
      some ((0b01, 3, 1), ⟨true, 0x0003, false⟩) := by decide
/-- G10. -/
theorem test_set_position :
    afterCycle (stateWith 0b01 100 7 [{ cmd := 4, wdata := 0xFFFB }]) =
      some ((0b01, -5, 0), ⟨false, 0, false⟩) := by decide
/-- G12. -/
theorem test_sample_then_set_position :
    afterCycle (stateWith 0b01 3 1 [{ tick := true, a := true, b := true, cmd := 4, wdata := 100 }]) =
      some ((0b11, 100, 0), ⟨false, 0, false⟩) := by decide
/-- K1. -/
theorem test_button_pressed :
    afterCycle (stateWith 0b10 1 1 [{ btnN := false, cmd := 5 }]) =
      some ((0b10, 1, 1), ⟨true, 0x0001, false⟩) := by decide
/-- K2. -/
theorem test_button_released :
    afterCycle (stateWith 0b10 1 1 [{ btnN := true, cmd := 5 }]) =
      some ((0b10, 1, 1), ⟨true, 0x0000, false⟩) := by decide
/-- N5: the SAMPLE is not suppressed. -/
theorem test_sample_then_rsvd6 :
    afterCycle (stateWith 0b10 7 7 [{ tick := true, cmd := 6 }]) =
      some ((0b00, 8, 8), ⟨false, 0, true⟩) := by decide
/-- N4, and the record R95 asks for. -/
theorem test_rsvd7 :
    (stateOf (step (stateWith 0b10 7 7 [{ cmd := 7, wdata := 1 }]))).map
      (fun t => (registers t, t.out, t.fault)) =
      some ((0b10, 7, 7), ⟨false, 0, true⟩, some .cmdError) := by decide
/-- I7: reset wins over SAMPLE and a reserved code. -/
theorem test_reset_wins :
    afterCycle (stateWith 0b11 9 9 [{ rst := true, tick := true, b := true, btnN := false, cmd := 7 }]) =
      some ((0b01, 0, 0), ⟨false, 0, false⟩) := by decide

/-- The reset state's next cycle runs a placed table word. -/
theorem test_fetch_word_host :
    (stateOf (step (State.reset.withFetchWord 24 0x4FFFB))).map registers = some (0b11, 0xFFFB, 0) := by
  decide
theorem test_fetch_word_sampler :
    (stateOf (step (State.reset.withFetchWord 8 0x1))).map (fun t => t.ports.tick) = some true := by decide

/-! ## Witnesses: a concrete case that meets the hypotheses of each statement -/

theorem wit_HostWordsDecodeByMatchAndMask :
    (0x0FFFF : HReq) &&& 0x70000 = 0x00000 ∧ (0x1FFFF : HReq) &&& 0x70000 = 0x10000 ∧
    (0x2FFFF : HReq) &&& 0x70000 = 0x20000 ∧ (0x3FFFF : HReq) &&& 0x70000 = 0x30000 ∧
    (0x4FFFF : HReq) &&& 0x70000 = 0x40000 ∧ (0x5FFFF : HReq) &&& 0x70000 = 0x50000 ∧
    (0x6FFFF : HReq) &&& 0x70000 = 0x60000 ∧ (0x7FFFF : HReq) &&& 0x70000 = 0x70000 := by decide

theorem wit_DecodeInvertsEncode :
    decode ⟨.T, 1⟩ = .ok .sample ∧ Instr.sample.format = .T ∧
    decode ⟨.H, 0x4FFFF⟩ = .ok (.setPosition 0xFFFF) := by decide

theorem wit_TraceCycleDrivesItsPorts :
    TraceCycle.wf { sample := true, host := .button, a := some true, b := some false, btnN := some false } =
      true := by decide

theorem wit_StepRunsTheDecodedOperations :
    let alone : Inputs := { cmd := 2 }
    let both : Inputs := { tick := true, cmd := 2 }
    ((stateWith 0b00 0 0 [alone]).pending = .settled alone :: [] ∧ alone.rst = false ∧ alone.tick = false) ∧
    ((stateWith 0b00 0 0 [both]).pending = .settled both :: [] ∧ both.rst = false ∧ both.tick = true) := by decide

theorem wit_PlacedTableWordRuns :
    decodeTableWord 8 0x1 = some .sample ∧ decodeTableWord 24 0x4FFFF = some (.setPosition 0xFFFF) := by decide

theorem wit_TraceEndTakesFreeInputs : State.reset.pending = [] := by decide

theorem wit_StepStopsOnlyOnUnsettledInputs :
    ({ State.reset with pending := [.unsettled] } : State).pending = .unsettled :: [] ∧
    (stateOf (step (stateWith 0b00 0 0 [{ tick := true }]))).isSome = true := by decide

theorem wit_ResetCycleSeedsAndZeroes :
    let inp : Inputs := { rst := true, tick := true, cmd := 7 }
    (stateWith 0b00 5 5 [inp]).pending = .settled inp :: [] ∧ inp.rst = true := by decide

theorem wit_HeldResetLeavesTheLastSeed :
    let held : List Inputs := [{ rst := true }]
    let last : Inputs := { rst := true, a := true }
    (stateWith 0b00 5 5 (held ++ [last])).pending = (held ++ [last]).map .settled ++ [] ∧
    (∀ inp ∈ held, inp.rst = true) ∧ last.rst = true ∧
    SafeRun (held.length + 1) (stateWith 0b00 5 5 (held ++ [last])) :=
  ⟨by decide, by decide, by decide, rfl, rfl, rfl, trivial⟩

theorem wit_ResetAndInitForgetThePast :
    let inp : Inputs := { cmd := 1 }
    (stateWith 0b00 5 5 [inp]).pending = .settled inp :: [] ∧
    (stateWith 0b11 (-9) 0 [inp, {}]).pending = .settled inp :: [.settled {}] ∧
    (inp.rst = true ∨ inp.cmd = 0b001) := by decide

theorem wit_InitSeedsAndZeroes :
    ∃ u, exec .sample { stateWith 0b11 9 9 [] with ports := { a := true } } = .next u ∧ u.position = 10 :=
  ⟨_, rfl, by decide⟩

theorem wit_IdleCyclesAreInvisible :
    (∀ inp ∈ [({ a := true, btnN := false, wdata := 0xFFFF } : Inputs), {}], isIdle inp = true) ∧
    SafeRun (0 + 1) { stateWith 0b11 4 4 [] with pending := [.settled { tick := true, cmd := 2 }] } :=
  ⟨by decide, rfl, rfl, trivial⟩

theorem wit_CmdErrorIsHarmlessAndNotLatched :
    let inp : Inputs := { tick := true, cmd := 6 }
    let s : State := stateWith 0b10 7 7 [inp, { cmd := 3 }]
    (s.pending = .settled inp :: [.settled { cmd := 3 }] ∧ inp.rst = false ∧
      (inp.cmd = 0b110 ∨ inp.cmd = 0b111)) ∧
    (∃ t u, step s = .next t ∧ step t = .next u ∧ raises u.ports = false) :=
  ⟨by decide, _, _, rfl, rfl, by decide⟩

theorem wit_CmdErrorRecordIsSticky :
    ∃ t, runSteps 1 { stateWith 0b10 7 7 [{ rst := true }] with fault := some .cmdError } = .next t ∧
      t.fault = some .cmdError :=
  ⟨_, rfl, by decide⟩

theorem wit_SamplePositionWraps :
    (presentLines { stateWith 0b00 0x7FFF 0 [] with ports := { b := true } } = 0b01 ∧ stepOf 0b00 0b01 = 1) ∧
    (presentLines { stateWith 0b00 0x8000 0 [] with ports := { a := true } } = 0b10 ∧ stepOf 0b00 0b10 = -1) ∧
    (presentLines { stateWith 0b00 0x7FFF 0 [] with ports := {} } = 0b00 ∧ stepOf 0b00 0b00 = 0) := by decide

theorem wit_SampleCountsTheRotation :
    (stateWith 0b00 0 0x7F []).deltaMode = .saturate ∧ (stateWith 0b00 0 0x80 [] .wrap).deltaMode = .wrap ∧
    turnOf 0b01 0b10 = 0 := by decide

theorem wit_SampleDeltaSaturates :
    let s (d : Delta) (a b : Bool) : State := { stateWith 0b00 0 d [] with ports := { a := a, b := b } }
    (∀ d a b, (s d a b).deltaMode = .saturate) ∧
    ((s 0x7F false true).delta.toInt = 127 ∧ stepOf 0b00 (presentLines (s 0x7F false true)) = 1) ∧
    ((s 0x80 true false).delta.toInt = -128 ∧ stepOf 0b00 (presentLines (s 0x80 true false)) = -1) ∧
    ((s 0x7F true false).delta.toInt = 127 ∧ stepOf 0b00 (presentLines (s 0x7F true false)) = -1) := by
  refine ⟨fun _ _ _ => rfl, ?_⟩; decide

theorem wit_SampleDeltaWraps :
    let s (d : Delta) (a b : Bool) : State := { stateWith 0b00 0 d [] .wrap with ports := { a := a, b := b } }
    (∀ d a b, (s d a b).deltaMode = .wrap) ∧
    ((s 0x7F false true).delta.toInt = 127 ∧ stepOf 0b00 (presentLines (s 0x7F false true)) = 1) ∧
    ((s 0x80 true false).delta.toInt = -128 ∧ stepOf 0b00 (presentLines (s 0x80 true false)) = -1) ∧
    ((s 0x80 false true).delta.toInt = -128 ∧ stepOf 0b00 (presentLines (s 0x80 false true)) = 1) := by
  refine ⟨fun _ _ _ => rfl, ?_⟩; decide

theorem wit_ZeroStepMovesOnlyTheLines :
    let same : State := { stateWith 0b10 0 0 [] with ports := { a := true } }
    let both : State := { stateWith 0b10 0 0 [] with ports := { b := true } }
    stepOf same.lastState (presentLines same) = 0 ∧
    (both.lastState.getLsbD 1 ≠ both.ports.a ∧ both.lastState.getLsbD 0 ≠ both.ports.b ∧
      stepOf both.lastState (presentLines both) = 0) := by decide

theorem wit_LastStateIsTheLatestSample :
    (∃ t, step (stateWith 0b10 0 0 [{ tick := true, b := true }]) = .next t ∧ samplingInstant t.ports = true) ∧
    (∃ t, step (stateWith 0b10 0 0 [{ b := true, cmd := 4 }]) = .next t ∧ samplingInstant t.ports = false) :=
  ⟨⟨_, rfl, by decide⟩, ⟨_, rfl, by decide⟩⟩

theorem wit_MotionIsSeenModuloFour :
    (stateWith 0b10 0 0 []).lastState = linesAtPlace (-1) ∧
    presentLines { stateWith 0b10 0 0 [] with ports := { a := true, b := true } } = linesAtPlace (-1 + 3) := by
  decide

theorem wit_BounceLeavesThePosition :
    let there : Inputs := { tick := true, a := true }
    let back : Inputs := { tick := true, a := true, b := true }
    let s : State := stateWith 0b11 300 127 [there, back]
    s.pending = .settled there :: .settled back :: [] ∧
    there.rst = false ∧ there.tick = true ∧ there.cmd = 0b000 ∧
    back.rst = false ∧ back.tick = true ∧ back.cmd = 0b000 ∧
    s.lastState.getLsbD 1 = back.a ∧ s.lastState.getLsbD 0 = back.b ∧
    s.delta.toInt = 127 ∧ turnOf s.lastState 0b10 = 1 ∧ SafeRun 2 s :=
  ⟨by decide, by decide, by decide, by decide, by decide, by decide, by decide, by decide, by decide, by decide,
    by decide, rfl, rfl, rfl, trivial⟩

theorem wit_PositionAndLinesKeepTheirParity :
    ∃ t, step (stateWith 0b10 7 7 [{ tick := true, cmd := 2 }]) = .next t ∧
      Keeps (stateWith 0b10 7 7 [{ tick := true, cmd := 2 }]) t :=
  ⟨_, rfl, by decide, by decide, by decide⟩

theorem wit_ResponsesAreWidenedToThePort :
    (∃ t, exec .getPosition (stateWith 0b00 0x8000 0 []) = .next t) ∧
    (∃ t, exec .getDelta (stateWith 0b00 0 0x80 []) = .next t) ∧
    (∃ t, exec .button (stateWith 0b00 0 0 []) = .next t) :=
  ⟨⟨_, rfl⟩, ⟨_, rfl⟩, ⟨_, rfl⟩⟩

theorem wit_CounterOperationsLeaveTheLines :
    Instr.getDelta = .getDelta ∨ Instr.getDelta = .getPosition ∨ ∃ v, Instr.getDelta = .setPosition v :=
  .inl rfl

theorem wit_DeltaIsConsumedOnce :
    let first : Inputs := { tick := true, cmd := 2 }
    let between : List Inputs := [{ cmd := 3 }]
    let last : Inputs := { cmd := 2 }
    (stateWith 0b11 4 4 (first :: between ++ [last])).pending =
      (first :: between ++ [last]).map .settled ++ [] ∧
    (∀ inp ∈ first :: between ++ [last], inp.rst = false) ∧ first.cmd = 0b010 ∧ last.cmd = 0b010 ∧
    (∀ inp ∈ between ++ [last], inp.tick = false ∧ inp.cmd ≠ 0b001 ∧ inp.cmd ≠ 0b100) ∧
    SafeRun (between.length + 2) (stateWith 0b11 4 4 (first :: between ++ [last])) :=
  ⟨by decide, by decide, by decide, by decide, by decide, rfl, rfl, rfl, rfl, trivial⟩

theorem wit_PositionAndButtonReadsRepeat :
    let first : Inputs := { cmd := 5, btnN := false }
    let between : List Inputs := [{ cmd := 2 }]
    let last : Inputs := { cmd := 5, btnN := false }
    (stateWith 0b11 4 4 (first :: between ++ [last])).pending =
      (first :: between ++ [last]).map .settled ++ [] ∧
    (∀ inp ∈ first :: between ++ [last], inp.rst = false) ∧ (first.cmd = 0b011 ∨ first.cmd = 0b101) ∧
    last.cmd = first.cmd ∧ (first.cmd = 0b101 → last.btnN = first.btnN) ∧
    (∀ inp ∈ between ++ [last], inp.tick = false ∧ inp.cmd ≠ 0b001 ∧ inp.cmd ≠ 0b100) ∧
    SafeRun (between.length + 2) (stateWith 0b11 4 4 (first :: between ++ [last])) :=
  ⟨by decide, by decide, by decide, by decide, by decide, by decide, rfl, rfl, rfl, rfl, trivial⟩

/-- The GET_POSITION clause, with a button line that moves. -/
theorem wit_PositionAndButtonReadsRepeat_position :
    let first : Inputs := { tick := true, cmd := 3, btnN := false }
    let between : List Inputs := [{ cmd := 2 }]
    let last : Inputs := { cmd := 3, btnN := true }
    (stateWith 0b11 4 4 (first :: between ++ [last])).pending =
      (first :: between ++ [last]).map .settled ++ [] ∧
    (∀ inp ∈ first :: between ++ [last], inp.rst = false) ∧ (first.cmd = 0b011 ∨ first.cmd = 0b101) ∧
    last.cmd = first.cmd ∧ (first.cmd = 0b101 → last.btnN = first.btnN) ∧
    (∀ inp ∈ between ++ [last], inp.tick = false ∧ inp.cmd ≠ 0b001 ∧ inp.cmd ≠ 0b100) ∧
    SafeRun (between.length + 2) (stateWith 0b11 4 4 (first :: between ++ [last])) :=
  ⟨by decide, by decide, by decide, by decide, by decide, by decide, rfl, rfl, rfl, rfl, trivial⟩

theorem wit_SampleComesBeforeTheHostOperation :
    let inp : Inputs := { tick := true, a := true, b := true, cmd := 4, wdata := 100 }
    (stateWith 0b01 3 1 [inp]).pending = .settled inp :: [] ∧ inp.rst = false ∧ inp.tick = true := by decide

theorem wit_ResponseSignalsFollowTheCommand :
    ∃ t, step (stateWith 0b10 1 1 [{ tick := true, cmd := 2 }]) = .next t ∧ t.ports.rst = false :=
  ⟨_, rfl, by decide⟩

theorem wit_IgnoredInputsDoNotMatter :
    let inp : Inputs := { cmd := 2 }
    let inp' : Inputs := { cmd := 2, a := true, b := true, btnN := false, wdata := 0x1234 }
    inp.rst = inp'.rst ∧ inp.tick = inp'.tick ∧ inp.cmd = inp'.cmd ∧ inp.cmd ≠ 0b100 ∧ inp.cmd ≠ 0b101 ∧
      ¬ (inp.rst = true ∨ inp.tick = true ∨ inp.cmd = 0b001) := by decide

/-- States that differ in the record, the ports, the outputs and the later cycles; both steps answer. -/
theorem wit_RegistersAndInputsDetermineTheCycle :
    let s : State := stateWith 0b10 7 7 [{ cmd := 3 }]
    let u : State := { stateWith 0b10 7 7 [{ cmd := 3 }, { tick := true }] with
      ports := { btnN := false }, out := ⟨true, 5, false⟩, fault := some .cmdError }
    registers s = registers u ∧ s.deltaMode = u.deltaMode ∧ (takeStimulus s).1 = (takeStimulus u).1 ∧
      s.fault ≠ u.fault ∧ s.pending ≠ u.pending ∧ ∃ t t', step s = .next t ∧ step u = .next t' :=
  ⟨by decide, by decide, by decide, by decide, by decide, _, _, rfl, rfl⟩

theorem wit_RegistersAndInputsDetermineTheCycle_unsettled :
    let s : State := { stateWith 0b10 7 7 [] with pending := [.unsettled] }
    let u : State := { s with fault := some .cmdError }
    registers s = registers u ∧ s.deltaMode = u.deltaMode ∧ (takeStimulus s).1 = (takeStimulus u).1 ∧
      step s = .refused .unsettledInputs :=
  ⟨by decide, by decide, by decide, rfl⟩

theorem wit_ModelRecordsFeedNothingBack :
    (∃ t, step (stateWith 0b10 7 7 [{ tick := true, cmd := 2 }]) = .next t ∧ raises t.ports = false) ∧
    (∃ t, step (stateWith 0b10 7 7 [{ tick := true, cmd := 7 }]) = .next t ∧ raises t.ports = true) :=
  ⟨⟨_, rfl, by decide⟩, _, rfl, by decide⟩

theorem wit_LastStateIsNotReadable :
    ∃ t, step (stateWith 0b10 7 7 [{ cmd := 3 }]) = .next t ∧ t.ports.tick = false ∧ t.ports.cmd ≠ 0b010 :=
  ⟨_, rfl, by decide, by decide⟩

/-- A SAMPLE beside GET_POSITION at the bound of `delta`. -/
theorem wit_LastStateIsNotReadable_sample :
    ∃ t, step (stateWith 0b10 7 127 [{ tick := true, cmd := 3 }]) = .next t ∧ t.ports.tick = true ∧
      t.ports.cmd ≠ 0b010 :=
  ⟨_, rfl, by decide, by decide⟩

/-- A reset cycle with `tick = 1` and GET_DELTA's code. -/
theorem wit_LastStateIsNotReadable_reset :
    ∃ t, step (stateWith 0b10 7 7 [{ rst := true, tick := true, cmd := 2 }]) = .next t ∧
      t.ports.rst = true ∧ t.ports.tick = true ∧ t.ports.cmd = 0b010 :=
  ⟨_, rfl, by decide, by decide, by decide⟩

theorem wit_DeltaModeNeverChanges :
    ∃ t, step (stateWith 0b10 7 7 [{ tick := true }] .wrap) = .next t := ⟨_, rfl⟩

/-- A SAMPLE beside a reserved code, up to a bound of `delta`. -/
theorem wit_EveryCycleCountsItsStep :
    let s : State := stateWith 0b10 0x7FFF 126 [{ tick := true, cmd := 6 }]
    ∃ t, step s = .next t ∧ Keeps s t ∧ InBounds s t ∧ counted s t = 1 :=
  ⟨_, rfl, ⟨by decide, by decide, by decide⟩, ⟨by decide, by decide⟩, by decide⟩

/-- A safe run, and a run that R95 gives no claim. -/
theorem wit_SafeRunIsReadOffTheRecord :
    (SafeRun 2 (stateWith 0b10 7 7 [{ tick := true, cmd := 2 }, { rst := true, cmd := 6 }]) ∧
      ∃ t, runSteps 2 (stateWith 0b10 7 7 [{ tick := true, cmd := 2 }, { rst := true, cmd := 6 }]) = .next t) ∧
    (¬ SafeRun 2 (stateWith 0b10 7 7 [{ cmd := 6 }, { rst := true }]) ∧
      ∃ t, runSteps 2 (stateWith 0b10 7 7 [{ cmd := 6 }, { rst := true }]) = .next t) :=
  ⟨⟨⟨rfl, rfl, rfl, trivial⟩, _, rfl⟩, fun h => Option.some_ne_none _ h.2.1, _, rfl⟩

theorem wit_StepKeepsTheRecordConsistent :
    let s : State := { State.reset with pending := [.settled { cmd := 6 }] }
    Consistent s ∧ ∃ t, step s = .next t :=
  ⟨by constructor <;> decide, _, rfl⟩

theorem wit_PositionIsTheSumOfSteps :
    let s : State := stateWith 0b10 0x7FFF 127 [{ tick := true }]
    (∃ t, runSteps 1 s = .next t) ∧ SafeRun 1 s ∧ HoldsAlong Keeps 1 s :=
  ⟨⟨_, rfl⟩, ⟨rfl, rfl, trivial⟩, ⟨by decide, by decide, by decide⟩, trivial⟩

theorem wit_ConsumedDeltaIsConserved :
    let s : State := stateWith 0b10 0 126 [{ tick := true, cmd := 2 }]
    (∃ t, runSteps 1 s = .next t) ∧ SafeRun 1 s ∧ HoldsAlong Keeps 1 s ∧ HoldsAlong InBounds 1 s :=
  ⟨⟨_, rfl⟩, ⟨rfl, rfl, trivial⟩, ⟨⟨by decide, by decide, by decide⟩, trivial⟩, ⟨⟨by decide, by decide⟩, trivial⟩⟩

theorem wit_TurningCountsAndSaturates :
    let s : State := stateWith 0b00 0 0x7F []
    let u : State := stateWith 0b00 0 0x80 [] .wrap
    (s.deltaMode = .saturate ∧ SafeRun 2 (loadTrace (turnUp 2 s.lastState) s)) ∧
    (u.deltaMode = .wrap ∧ SafeRun 2 (loadTrace (turnDown 2 u.lastState) u)) :=
  ⟨⟨by decide, rfl, rfl, rfl, trivial⟩, by decide, rfl, rfl, rfl, trivial⟩

theorem wit_HoldingCountsNothing :
    let s : State := stateWith 0b10 0 0x7F []
    SafeRun 2 (loadTrace (holdTrace 2 s.lastState) s) := ⟨rfl, rfl, rfl, trivial⟩

theorem wit_PositionFollowsTheKnob :
    let s : State := { stateWith 0b00 0 0 [] with
      pending := [1, 1, 0].map (fun p => .settled (sampleAtPlace p)) }
    s.lastState = linesAtPlace 0 ∧ RateKept 0 [1, 1, 0] ∧ SafeRun 3 s :=
  ⟨by decide, ⟨by decide, by decide, by decide, trivial⟩, rfl, rfl, rfl, rfl, trivial⟩

end Sys2Proof.Tests
end

namespace Sys2Proof.Proofs

open Sys2Proof.Machine

/-- Settles O45: a step that answers is a cycle on a state of the same build (taking the inputs off the trace keeps it), and
a cycle, reset or not, keeps its build (R8). -/
theorem deltaModeNeverChanges : Obligations.DeltaModeNeverChanges := by
  intro s t h
  obtain ⟨u, hcycle, -, -, -, -, hmode, -⟩ := step_next_is_cycle h
  calc t.deltaMode = (cycled t.ports u).deltaMode := congrArg State.deltaMode hcycle
    _ = u.deltaMode := cycled_deltaMode t.ports u
    _ = s.deltaMode := hmode

end Sys2Proof.Proofs

namespace Sys2Proof.Proofs

open Sys2Proof.Machine
open Sys2Proof.Safety

/-! ## The registers after a cycle

What each register of a completed cycle was computed from (R13 to R17, R20). -/

/-- R15: a sampling instant leaves the lines in `last_state`, and no other cycle writes it. -/
theorem cycled_lastState (inp : Inputs) (s : State) :
    (cycled inp s).lastState = if samplingInstant inp then lineState inp.a inp.b else s.lastState := by
  cases hr : inp.rst
  · rw [cycled_of_no_rst hr]
    cases hk : inp.tick
    · rw [sampled_of_no_tick hk]
      simp [hosted, samplingInstant, presentLines, hr, hk]
    · rw [sampled_of_tick hk]
      simp [hosted, samplingInstant, presentLines, hk]
  · rw [cycled_of_rst hr]
    simp [samplingInstant, presentLines, hr]

/-- In a cycle without SAMPLE neither the outputs nor the counters are computed from `last_state`. -/
theorem cycled_congr_of_no_sample {inp : Inputs} (h : inp.rst = true ∨ inp.tick = false) {x y : State}
    (hp : x.position = y.position) (hd : x.delta = y.delta) :
    (cycled inp x).out = (cycled inp y).out ∧ (cycled inp x).position = (cycled inp y).position ∧
      (cycled inp x).delta = (cycled inp y).delta := by
  cases hr : inp.rst
  · have hk : inp.tick = false := by simpa [hr] using h
    rw [cycled_of_no_rst hr, cycled_of_no_rst hr, sampled_of_no_tick hk, sampled_of_no_tick hk]
    simp [hosted, pressed, hp, hd]
  · rw [cycled_of_rst hr, cycled_of_rst hr]
    simp

/-- The sampler moves `last_state` and `position` without reading `delta`. -/
theorem sampled_congr {x y : State} (hl : x.lastState = y.lastState) (hp : x.position = y.position)
    (hi : x.ports = y.ports) :
    (sampled x).lastState = (sampled y).lastState ∧ (sampled x).position = (sampled y).position := by
  cases hk : y.ports.tick
  · rw [sampled_of_no_tick hk, sampled_of_no_tick (hi ▸ hk)]
    exact ⟨hl, hp⟩
  · rw [sampled_of_tick hk, sampled_of_tick (hi ▸ hk)]
    simp [presentLines, hl, hp, hi]

/-- In a cycle without GET_DELTA neither the outputs nor the other two registers are computed from `delta`. -/
theorem cycled_congr_of_no_getDelta {inp : Inputs} (h : inp.rst = true ∨ inp.cmd ≠ 0b010) {x y : State}
    (hl : x.lastState = y.lastState) (hp : x.position = y.position) :
    (cycled inp x).out = (cycled inp y).out ∧ (cycled inp x).lastState = (cycled inp y).lastState ∧
      (cycled inp x).position = (cycled inp y).position := by
  cases hr : inp.rst
  · have hc : inp.cmd ≠ 2#3 := by simpa [hr] using h
    obtain ⟨hl', hp'⟩ : (sampled (x.setPorts inp)).lastState = (sampled (y.setPorts inp)).lastState ∧
        (sampled (x.setPorts inp)).position = (sampled (y.setPorts inp)).position :=
      sampled_congr hl hp rfl
    rw [cycled_of_no_rst hr, cycled_of_no_rst hr]
    simp [hosted, pressed, presentLines, hc, hl', hp']
  · rw [cycled_of_rst hr, cycled_of_rst hr]
    simp [presentLines]

/-- A cycle without SAMPLE keeps `delta` or zeroes it (R17). -/
theorem cycled_delta_of_no_sample {inp : Inputs} (h : inp.rst = true ∨ inp.tick = false) (s : State) :
    (cycled inp s).delta = s.delta ∨ (cycled inp s).delta = 0 := by
  cases hr : inp.rst
  · have hk : inp.tick = false := by simpa [hr] using h
    rw [cycled_of_no_rst hr, sampled_of_no_tick hk]
    by_cases hc : inp.cmd = 0b001 ∨ inp.cmd = 0b010 ∨ inp.cmd = 0b100
    · exact .inr (if_pos hc)
    · exact .inl (if_neg hc)
  · rw [cycled_of_rst hr]
    exact .inr rfl

/-! ## The model's own records in a cycle (log entries 4 and 8) -/

/-- The sampler neither reads nor writes the two records. -/
theorem sampled_with_records (s : State) (o : Outputs) (f : Option Fault) :
    sampled { s with out := o, fault := f } = { sampled s with out := o, fault := f } := by
  cases hk : s.ports.tick
  · rw [sampled_of_no_tick hk, sampled_of_no_tick (s := { s with out := o, fault := f }) hk]
  · rw [sampled_of_tick hk, sampled_of_tick (s := { s with out := o, fault := f }) hk]
    rfl

/-- A cycle writes ports and outputs anew before it reads them. -/
theorem cycled_with_ports_out (inp : Inputs) (s : State) (p : Inputs) (o : Outputs) :
    cycled inp { s with ports := p, out := o } = cycled inp s := by
  cases hr : inp.rst
  · have hs : sampled (({ s with ports := p, out := o } : State).setPorts inp) =
        { sampled (s.setPorts inp) with out := o, fault := s.fault } :=
      sampled_with_records (s.setPorts inp) o s.fault
    have hf : (sampled (s.setPorts inp)).fault = s.fault := sampled_fault _
    rw [cycled_of_no_rst hr, cycled_of_no_rst hr, hs, ← hf]
    rfl
  · rw [cycled_of_rst hr, cycled_of_rst hr]
    rfl

/-- A cycle passes the record of CmdErrors on unread, and writes it only when it raises one (R82, R95). -/
theorem cycled_with_fault (inp : Inputs) (s : State) (f : Option Fault) :
    cycled inp { s with fault := f } =
      { cycled inp s with fault := if raises inp then some .cmdError else f } := by
  cases hr : inp.rst
  · have hs : sampled (({ s with fault := f } : State).setPorts inp) =
        { sampled (s.setPorts inp) with out := s.out, fault := f } :=
      sampled_with_records (s.setPorts inp) s.out f
    rw [cycled_of_no_rst hr, cycled_of_no_rst hr, hs]
    simp [hosted, raises, hr, presentLines, pressed]
  · rw [cycled_of_rst hr, cycled_of_rst hr]
    simp [raises, hr, noResponse, seedFromLines, State.setOut, State.setDelta, State.setPosition,
      State.setLastState, State.setPorts, presentLines]

/-! ## Steps on one trace -/

/-- Taking a cycle's inputs touches the trace and the count of free draws, and reads nothing else. -/
theorem takeStimulus_of_same_trace {s u : State} (hp : u.pending = s.pending) (hd : u.draws = s.draws) :
    takeStimulus u = ((takeStimulus s).1,
      { u with pending := (takeStimulus s).2.pending, draws := (takeStimulus s).2.draws }) := by
  match h : s.pending with
  | [] => simp [takeStimulus, h, hp, hd]
  | x :: rest => simp [takeStimulus, h, hp, ← hd]

@[simp] theorem takeStimulus_registers (s : State) : registers (takeStimulus s).2 = registers s := by
  rw [takeStimulus_of_same_trace (s := s) rfl rfl]
  rfl

@[simp] theorem takeStimulus_deltaMode (s : State) : (takeStimulus s).2.deltaMode = s.deltaMode := by
  rw [takeStimulus_of_same_trace (s := s) rfl rfl]

/-- A state that stands before the same trace as one whose step answers takes the same inputs, and so answers too; with
`u := s` this is what the step itself answers. -/
theorem step_of_same_trace {s t u : State} (h : step s = .next t) (hp : u.pending = s.pending)
    (hd : u.draws = s.draws) :
    step u = .next (cycled t.ports { u with pending := t.pending, draws := t.draws }) := by
  obtain ⟨v, hcycle, htake, -⟩ := step_next_is_cycle h
  have hpending : t.pending = v.pending := by rw [hcycle, cycled_pending]
  have hdraws : t.draws = v.draws := by rw [hcycle, cycled_draws]
  apply step_of_takes
  rw [takeStimulus_of_same_trace hp hd, htake, hpending, hdraws]

/-- The state a step leaves, as the cycle on its own inputs. -/
theorem step_next_eq_cycled {s t : State} (h : step s = .next t) :
    t = cycled t.ports { s with pending := t.pending, draws := t.draws } :=
  Host.Outcome.next.inj (h.symm.trans (step_of_same_trace h rfl rfl))

/-- A step that takes unstable inputs is refused by name (R109). -/
theorem step_of_takes_unsettled {s u : State} (h : takeStimulus s = (.unsettled, u)) :
    step s = .refused .unsettledInputs := by
  simp [step, h]

/-- Taking a cycle's inputs passes the latest cycle's ports and outputs on unread. -/
theorem takeStimulus_with_ports_out (s : State) (p : Inputs) (o : Outputs) :
    takeStimulus { s with ports := p, out := o } =
      ((takeStimulus s).1, { (takeStimulus s).2 with ports := p, out := o }) := by
  simp only [takeStimulus]
  cases s.pending <;> rfl

/-- A step does not read the ports and outputs of the latest cycle, whether it answers or is refused (log entry 8). -/
theorem step_with_ports_out (s : State) (p : Inputs) (o : Outputs) :
    step { s with ports := p, out := o } = step s := by
  have hrecords := takeStimulus_with_ports_out s p o
  match htake : takeStimulus s with
  | (.settled inp, u) =>
    rw [htake] at hrecords
    rw [step_of_takes htake, step_of_takes hrecords, cycled_with_ports_out]
  | (.unsettled, u) =>
    rw [htake] at hrecords
    rw [step_of_takes_unsettled htake, step_of_takes_unsettled hrecords]

/-! ## What every step keeps -/

/-- Settles O28: the answer is a cycle on a state with the same `last_state`, and R15 holds of every cycle. -/
theorem lastStateIsTheLatestSample : Obligations.LastStateIsTheLatestSample := by
  intro s t h
  have hlast : t.lastState =
      if samplingInstant t.ports then lineState t.ports.a t.ports.b else s.lastState :=
    (congrArg State.lastState (step_next_eq_cycled h)).trans (cycled_lastState _ _)
  constructor
  · intro hsampling
    rw [hlast, if_pos hsampling]
    exact ⟨lineState_bit_a _ _, lineState_bit_b _ _⟩
  · intro hother
    rw [hlast, if_neg (by simp [hother])]

/-- Settles O43: either both take the same unstable inputs and are refused, or both are cycles on the same inputs, from states
with the same registers and build (`cycled_congr`). -/
theorem registersAndInputsDetermineTheCycle : Obligations.RegistersAndInputsDetermineTheCycle := by
  intro s u hreg hmode htake
  cases hin : (takeStimulus s).1 with
  | unsettled =>
    exact .inl ⟨step_of_takes_unsettled (Prod.ext hin rfl),
      step_of_takes_unsettled (Prod.ext (htake.symm.trans hin) rfl)⟩
  | settled inp =>
    have hreg' : registers (takeStimulus s).2 = registers (takeStimulus u).2 := by simp [hreg]
    have hmode' : (takeStimulus s).2.deltaMode = (takeStimulus u).2.deltaMode := by simp [hmode]
    exact .inr ⟨_, _, step_of_takes (Prod.ext hin rfl),
      step_of_takes (Prod.ext (htake.symm.trans hin) rfl), cycled_congr inp hreg' hmode'⟩

/-- Settles O44: the changed state takes the same inputs, and the cycle on them computes the named fields from the unchanged
registers. -/
theorem lastStateIsNotReadable : Obligations.LastStateIsNotReadable := by
  intro s t h
  have ht := step_next_eq_cycled h
  refine ⟨fun hno l => ⟨_, step_of_same_trace h rfl rfl, ?_⟩,
    fun hno d => ⟨_, step_of_same_trace h rfl rfl, ?_⟩, fun hno => ?_⟩
  · have hsame := cycled_congr_of_no_sample hno
      (x := { s with lastState := l, pending := t.pending, draws := t.draws })
      (y := { s with pending := t.pending, draws := t.draws }) rfl rfl
    rwa [← ht] at hsame
  · have hsame := cycled_congr_of_no_getDelta hno
      (x := { s with delta := d, pending := t.pending, draws := t.draws })
      (y := { s with pending := t.pending, draws := t.draws }) rfl rfl
    rwa [← ht] at hsame
  · have hdelta := cycled_delta_of_no_sample hno { s with pending := t.pending, draws := t.draws }
    rwa [← ht] at hdelta

/-- Settles O53: ports and outputs are overwritten before they are read, and the record of CmdErrors is passed on unread. -/
theorem modelRecordsFeedNothingBack : Obligations.ModelRecordsFeedNothingBack := by
  refine fun s => ⟨step_with_ports_out s, fun t f h => ?_⟩
  calc step { s with fault := f }
      = .next (cycled t.ports { s with fault := f, pending := t.pending, draws := t.draws }) :=
        step_of_same_trace h rfl rfl
    _ = .next { cycled t.ports { s with pending := t.pending, draws := t.draws } with
          fault := if raises t.ports then some .cmdError else f } :=
        congrArg _ (cycled_with_fault t.ports { s with pending := t.pending, draws := t.draws } f)
    _ = .next { t with fault := if raises t.ports then some .cmdError else f } := by
        rw [← step_next_eq_cycled h]

/-! ## The state after reset -/

/-- A reset cycle leaves a consistent record in either build and with the lines at any levels, those of `State.reset` among
them. -/
theorem consistent_afterReset (mode : DeltaMode) (a b : Bool) : Consistent (State.afterReset mode a b) where
  rvalid_iff := rfl
  err_iff := rfl
  rdata_idle _ := rfl
  err_recorded herr := by cases herr
  lines_kept _ := ⟨lineState_bit_a a b, lineState_bit_b a b⟩
  start_zero _ := ⟨rfl, rfl⟩
  delta_consumed hrst := by cases hrst
  position_shown hrst := by cases hrst
  position_set hrst := by cases hrst
  button_shown hrst := by cases hrst

/-- Settles O11: `State.reset` is one of the states a reset cycle leaves. -/
theorem resetStateConsistent : Obligations.ResetStateConsistent := consistent_afterReset .saturate true true

/-- Settles O10: the lines are kept by `consistent_afterReset` whatever their levels; the other fields are as
`State.afterReset` writes them (R24, R97, R8). -/
theorem resetStateIsLeftByAResetCycle : Obligations.ResetStateIsLeftByAResetCycle := by
  obtain ⟨ha, hb⟩ := (consistent_afterReset .saturate true true).lines_kept rfl
  exact ⟨rfl, rfl, ha, hb, rfl, rfl, rfl, rfl⟩

end Sys2Proof.Proofs

namespace Sys2Proof.Proofs

open Sys2Proof.Machine
open Sys2Proof.Safety

/-! ## A cycle without reset, register by register

The host port's operation on what the sampler left (R29, R30). -/

/-- INIT and SET_POSITION write `position`; after any other operation it is the sampler's (R55, R73). -/
theorem cycled_position_of_no_rst {inp : Inputs} (hr : inp.rst = false) (s : State) :
    (cycled inp s).position = if inp.cmd = 0b001 then 0 else if inp.cmd = 0b100 then inp.wdata
      else (sampled (s.setPorts inp)).position := by
  rw [cycled_of_no_rst hr]
  rfl

/-- INIT, GET_DELTA and SET_POSITION zero `delta`; after any other operation it is the sampler's (R55, R70, R73). -/
theorem cycled_delta_of_no_rst {inp : Inputs} (hr : inp.rst = false) (s : State) :
    (cycled inp s).delta = if inp.cmd = 0b001 ∨ inp.cmd = 0b010 ∨ inp.cmd = 0b100 then 0
      else (sampled (s.setPorts inp)).delta := by
  rw [cycled_of_no_rst hr]
  rfl

/-- GET_DELTA answers the `delta` that the sampler left (R30, R70). -/
theorem cycled_out_of_getDelta {inp : Inputs} (hr : inp.rst = false) (hc : inp.cmd = 0b010) (s : State) :
    (cycled inp s).out = respondOutputs (sext16 (sampled (s.setPorts inp)).delta) := by
  rw [cycled_of_no_rst hr]
  simp [hosted, hc]

/-- GET_POSITION answers the `position` that its cycle leaves (R72). -/
theorem cycled_out_of_getPosition {inp : Inputs} (hr : inp.rst = false) (hc : inp.cmd = 0b011) (s : State) :
    (cycled inp s).out = respondOutputs (cycled inp s).position := by
  rw [cycled_of_no_rst hr]
  simp [hosted, hc]

/-- BUTTON answers from the button line of its cycle alone (R77). -/
theorem cycled_out_of_button {inp : Inputs} (hr : inp.rst = false) (hc : inp.cmd = 0b101) (s : State) :
    (cycled inp s).out = respondOutputs (zext16 (!inp.btnN)) := by
  rw [cycled_of_no_rst hr]
  simp [hosted, hc, pressed]

/-! ## What one cycle counts -/

/-- The widening to the port keeps the signed value (R46). -/
theorem sext16_toInt (d : Delta) : (sext16 d).toInt = d.toInt :=
  BitVec.toInt_signExtend_of_le (by decide)

/-- What a cycle without reset counts is read off its inputs and the `last_state` before it (R58, R61). -/
theorem counted_cycled {inp : Inputs} (hr : inp.rst = false) (s : State) :
    counted s (cycled inp s) =
      if inp.tick = true then turnOf s.lastState (lineState inp.a inp.b) else 0 := by
  simp [counted, presentLines, hr]

/-- The sampler adds the cycle's count to `position` (R65). -/
theorem sampled_position_eq_add {inp : Inputs} (hr : inp.rst = false) (s : State) :
    (sampled (s.setPorts inp)).position = s.position + BitVec.ofInt 16 (counted s (cycled inp s)) := by
  rw [counted_cycled hr]
  cases hk : inp.tick
  · rw [sampled_of_no_tick hk]
    simp
  · rw [sampled_of_tick hk]
    simp [stepPosition_eq_add, presentLines]

/-- Within the bounds the sampler adds the cycle's count to `delta`, in either build (R66, R67). -/
theorem sampled_delta_toInt_of_inBounds {inp : Inputs} (hr : inp.rst = false) {s : State}
    (hb : InBounds s (cycled inp s)) :
    (sampled (s.setPorts inp)).delta.toInt = s.delta.toInt + counted s (cycled inp s) := by
  obtain ⟨hlo, hhi⟩ := hb
  rw [counted_cycled hr] at hlo hhi ⊢
  cases hk : inp.tick
  · rw [sampled_of_no_tick hk]
    simp
  · rw [sampled_of_tick hk]
    simp only [hk, if_true] at hlo hhi ⊢
    exact stepDelta_toInt_of_inBounds s.deltaMode s.delta _ hlo hhi

/-- What the host takes from `delta` and what is left in it are together what the sampler left there: the clear loses nothing
and nothing is read twice (R35, R70). -/
theorem consumed_add_delta {inp : Inputs} {s : State} (h : Keeps s (cycled inp s)) :
    consumed s (cycled inp s) + (cycled inp s).delta.toInt = (sampled (s.setPorts inp)).delta.toInt := by
  obtain ⟨hr, hinit, hset⟩ := h
  rw [cycled_ports] at hr hinit hset
  rw [cycled_delta_of_no_rst hr]
  by_cases hc : inp.cmd = 0b010
  · simp [consumed, hr, hc, cycled_out_of_getDelta hr hc, respondOutputs, sext16_toInt]
  · rw [if_neg (not_or.2 ⟨hinit, not_or.2 ⟨hc, hset⟩⟩), consumed, cycled_ports,
      if_neg (fun hget => hc hget.2), zero_add]

/-- A cycle that forgets nothing adds its count to `position` (R65). -/
theorem cycled_position_of_keeps {inp : Inputs} {s : State} (h : Keeps s (cycled inp s)) :
    (cycled inp s).position = s.position + BitVec.ofInt 16 (counted s (cycled inp s)) := by
  obtain ⟨hr, hinit, hset⟩ := h
  rw [cycled_ports] at hr hinit hset
  rw [← sampled_position_eq_add hr, cycled_position_of_no_rst hr, if_neg hinit, if_neg hset]

/-- Settles O55: the answer is a cycle from the same registers; `position` is the sampler's, and GET_DELTA only moves the
sampler's `delta` into the response (`consumed_add_delta`). -/
theorem everyCycleCountsItsStep : Obligations.EveryCycleCountsItsStep := by
  intro s t h hkeeps
  obtain ⟨u, hcycle, -, hlast, hpos, hdelta, -⟩ := step_next_is_cycle h
  generalize t.ports = inp at hcycle
  subst hcycle
  have hr : inp.rst = false := by simpa using hkeeps.1
  have hcount : counted s (cycled inp u) = counted u (cycled inp u) := by simp [counted, hlast]
  rw [hcount, ← hpos, ← hdelta]
  refine ⟨cycled_position_of_keeps hkeeps, fun hbounds => ?_⟩
  have hbounds' : InBounds u (cycled inp u) := by rwa [InBounds, hcount, ← hdelta] at hbounds
  exact (consumed_add_delta hkeeps).trans (sampled_delta_toInt_of_inBounds hr hbounds')

/-- The delta invariant along a run, by induction on its cycles; a cycle that raises a CmdError keeps it too. -/
theorem runSteps_conserves_delta : ∀ {n : Nat} {s t : State}, runSteps n s = .next t → HoldsAlong Keeps n s →
    HoldsAlong InBounds n s → sumOver consumed n s + t.delta.toInt = s.delta.toInt + sumOver counted n s
  | 0, s, t, hrun, _, _ => by
    cases hrun
    simp [sumOver]
  | n + 1, s, t, hrun, hkeeps, hbounds => by
    obtain ⟨u, hstep, hrest⟩ := runSteps_succ_inv hrun
    obtain ⟨hkeep, hkeeps⟩ := (holdsAlong_succ hstep).1 hkeeps
    obtain ⟨hbound, hbounds⟩ := (holdsAlong_succ hstep).1 hbounds
    have hfirst := (everyCycleCountsItsStep s u hstep hkeep).2 hbound
    have hlater := runSteps_conserves_delta hrest hkeeps hbounds
    rw [sumOver_succ hstep, sumOver_succ hstep]
    omega

/-- Settles O48: the sum of O55's equation over the run (`runSteps_conserves_delta`). -/
theorem consumedDeltaIsConserved : Obligations.ConsumedDeltaIsConserved :=
  fun _ _ _ hrun _ hkeeps hbounds => runSteps_conserves_delta hrun hkeeps hbounds

/-! ## The order within a step -/

/-- Settles O6: a cycle without reset is the host operation on what the sampler left, which is SAMPLE's state if `tick` is 1
and the state itself if not. -/
theorem stepRunsTheDecodedOperations : Obligations.StepRunsTheDecodedOperations := by
  intro s inp rest hpending hr
  have hstep : step s =
      exec (decodeH inp.hreq) (sampled { s with pending := rest, ports := inp }) := by
    rw [step_of_settled hpending, cycled_of_no_rst hr, exec_host_eq]
    rfl
  constructor
  · intro hk
    rw [hstep, sampled_of_no_tick hk]
  · intro hk
    refine ⟨_, ?_, hstep⟩
    rw [exec_sample_eq, sampled_of_tick hk]

/-- Settles O9: the next cycle is free, written down with stable inputs, or marked as not stable; the first two answer and the
third is refused. -/
theorem stepStopsOnlyOnUnsettledInputs : Obligations.StepStopsOnlyOnUnsettledInputs := by
  intro s
  match hpending : s.pending with
  | [] => exact .inr ⟨by simp, _, step_of_trace_end hpending⟩
  | .settled inp :: rest => exact .inr ⟨by simp, _, step_of_settled hpending⟩
  | .unsettled :: rest => exact .inl ⟨rest, rfl, step_of_unsettled hpending⟩

/-- A cycle of the SAMPLE with NOP and then one of the host operation without SAMPLE leave what the one cycle leaves, but for
the record of the latest inputs (R30). -/
theorem cycled_sample_then_host {inp : Inputs} (hr : inp.rst = false) (hk : inp.tick = true) (s : State)
    (trace rest : List Stimulus) :
    cycled { inp with tick := false }
        { cycled { inp with cmd := 0b000 } { s with pending := trace } with pending := rest } =
      (cycled inp { s with pending := rest }).setPorts { inp with tick := false } := by
  have hr₁ : ({ inp with cmd := 0b000 } : Inputs).rst = false := hr
  have hr₂ : ({ inp with tick := false } : Inputs).rst = false := hr
  rw [cycled_of_no_rst hr₁, cycled_of_no_rst hr₂, cycled_of_no_rst hr, sampled_of_no_tick rfl,
    sampled_of_tick hk, sampled_of_tick hk]
  rfl

/-- Settles O40: the run of two cycles ends where the one step does, but for the record of the ports
(`cycled_sample_then_host`); what each operation leaves is the register-by-register laws at its code. -/
theorem sampleComesBeforeTheHostOperation : Obligations.SampleComesBeforeTheHostOperation := by
  intro s inp rest hpending hr hk
  have htwo : runSteps 2 { s with pending := .settled { inp with cmd := 0b000 } ::
                                             .settled { inp with tick := false } :: rest } =
      .next ((cycled inp { s with pending := rest }).setPorts { inp with tick := false }) := by
    rw [runSteps_of_settled 1 rfl, runSteps_of_settled 0 (cycled_pending _ _)]
    exact congrArg _ (cycled_sample_then_host hr hk s _ rest)
  refine ⟨_, _, step_of_settled hpending, htwo, rfl, rfl, rfl, rfl, fun hc => ?init, fun hc => ?getDelta,
    fun hc => ?getPosition, fun hc => ?setPosition⟩
  case init =>
    rw [cycled_lastState, cycled_position_of_no_rst hr, cycled_delta_of_no_rst hr,
      if_pos (by simp [samplingInstant, hk])]
    exact ⟨lineState_bit_a _ _, lineState_bit_b _ _, if_pos hc, if_pos (.inl hc)⟩
  case getDelta =>
    rw [cycled_delta_of_no_rst hr, if_pos (.inr (.inl hc))]
  case getPosition =>
    rw [cycled_out_of_getPosition hr hc]
    rfl
  case setPosition =>
    rw [cycled_position_of_no_rst hr, cycled_delta_of_no_rst hr]
    simp [hc]

/-! ## Reads repeated -/

/-- A cycle without reset, SAMPLE, INIT and SET_POSITION keeps `position` (R16). -/
theorem cycled_position_of_no_sample {inp : Inputs} (hr : inp.rst = false)
    (hquiet : inp.tick = false ∧ inp.cmd ≠ 0b001 ∧ inp.cmd ≠ 0b100) (s : State) :
    (cycled inp s).position = s.position := by
  obtain ⟨hk, hinit, hset⟩ := hquiet
  rw [cycled_position_of_no_rst hr, if_neg hinit, if_neg hset, sampled_of_no_tick hk]
  rfl

/-- A run over such cycles goes on, with the trace behind them and the same `position`. -/
theorem runSteps_over_no_sample {rest : List Stimulus} : ∀ {between : List Inputs} {s : State},
    s.pending = between.map .settled ++ rest → (∀ inp ∈ between, inp.rst = false) →
    (∀ inp ∈ between, inp.tick = false ∧ inp.cmd ≠ 0b001 ∧ inp.cmd ≠ 0b100) →
    ∃ v : State, (∀ n, runSteps (between.length + n) s = runSteps n v) ∧ v.pending = rest ∧
      v.position = s.position
  | [], s, hpending, _, _ => ⟨s, fun n => by simp, hpending, rfl⟩
  | inp :: between, s, hpending, hr, hquiet => by
    replace hpending : s.pending = .settled inp :: (between.map .settled ++ rest) := hpending
    obtain ⟨hr₀, hr⟩ := List.forall_mem_cons.1 hr
    obtain ⟨hquiet₀, hquiet⟩ := List.forall_mem_cons.1 hquiet
    obtain ⟨v, hrun, hv, hpos⟩ := runSteps_over_no_sample (rest := rest)
      (s := cycled inp { s with pending := between.map .settled ++ rest }) (cycled_pending _ _) hr hquiet
    refine ⟨v, fun n => ?_, hv, hpos.trans (cycled_position_of_no_sample hr₀ hquiet₀ _)⟩
    rw [← hrun n, ← runSteps_of_settled _ hpending]
    exact congrArg (runSteps · s) (Nat.succ_add _ _)

/-- Settles O39: each GET_POSITION answers the `position` its cycle leaves, which no cycle after the first changes, and each
BUTTON answers from its own button line. -/
theorem positionAndButtonReadsRepeat : Obligations.PositionAndButtonReadsRepeat := by
  intro s first last between rest hpending hr hread hsame hbutton hquiet _
  obtain ⟨hr₁, hr⟩ := List.forall_mem_cons.1 hr
  obtain ⟨hrBetween, hrLast⟩ := List.forall_mem_append.1 hr
  obtain ⟨hqBetween, hqLast⟩ := List.forall_mem_append.1 hquiet
  replace hrLast : last.rst = false := hrLast last (List.mem_singleton_self last)
  replace hqLast := hqLast last (List.mem_singleton_self last)
  have hpending₁ : s.pending =
      .settled first :: (between.map .settled ++ .settled last :: rest) := by simpa using hpending
  obtain ⟨v, hrun, hv, hpos⟩ := runSteps_over_no_sample (rest := .settled last :: rest)
    (s := cycled first { s with pending := between.map .settled ++ .settled last :: rest })
    (cycled_pending _ _) hrBetween hqBetween
  refine ⟨_, cycled last { v with pending := rest }, step_of_settled hpending₁, ?_, ?_⟩
  · rw [runSteps_of_settled (between.length + 1) hpending₁, hrun 1, runSteps_of_settled 0 hv]
    rfl
  · rcases hread with hc | hc
    · have hkept : (cycled last { v with pending := rest }).position = _ :=
        (cycled_position_of_no_sample hrLast hqLast _).trans hpos
      rw [cycled_out_of_getPosition hr₁ hc, cycled_out_of_getPosition hrLast (hsame.trans hc), hkept]
    · rw [cycled_out_of_button hr₁ hc, cycled_out_of_button hrLast (hsame.trans hc), hbutton hc]

end Sys2Proof.Proofs

namespace Sys2Proof.Proofs

open Sys2Proof.Machine
open Sys2Proof.Safety

/-! ## Encoding: what the decoder answers, and on which words -/

/-- The sampler port carries one operation. -/
theorem eq_sample_of_format {i : Instr} (h : i.format = .T) : i = .sample := by
  cases i
  case sample => rfl
  all_goals cases h

/-- A host operation's word is its code above its operand (R40). -/
theorem encode_of_host {i : Instr} (h : i.format = .H) : encode i = ⟨.H, (hreqOf i.cmd i.wdata).toNat⟩ := by
  simp [encode, h]

/-- SAMPLE is the sampler port's word 1, and every host word is what `decodeH` says; no other number is an operation. -/
theorem decode_eq_ok_iff {w : PortWord} {i : Instr} :
    decode w = .ok i ↔ (w = ⟨.T, 1⟩ ∧ i = .sample) ∨ ∃ h : HReq, w = ⟨.H, h.toNat⟩ ∧ i = decodeH h := by
  obtain ⟨format, n⟩ := w
  constructor
  · intro hdec
    cases format with
    | T =>
      rw [decode_sampler] at hdec
      split at hdec
      next => cases hdec
      next =>
        split at hdec
        next h₁ => cases hdec; exact .inl ⟨by rw [h₁], rfl⟩
        next => cases hdec
    | H =>
      by_cases hn : n < 2 ^ 19
      · rw [decode_host_of_lt hn] at hdec
        cases hdec
        exact .inr ⟨BitVec.ofNat 19 n, by rw [BitVec.toNat_ofNat, Nat.mod_eq_of_lt hn], rfl⟩
      · rw [decode_host_of_le (not_lt.1 hn)] at hdec
        cases hdec
  · rintro (⟨hw, rfl⟩ | ⟨h, hw, rfl⟩)
    · rw [hw, decode_sampler]; rfl
    · rw [hw, decode_host_word]

/-- Decoding inverts encoding. -/
theorem decode_encode (i : Instr) : decode (encode i) = .ok i := by
  cases hf : i.format with
  | T => rw [eq_sample_of_format hf]; exact decode_sampler 1
  | H => rw [encode_of_host hf, decode_host_word, decodeH_of_encoded i hf]

/-- Every operation's word fits its port. -/
theorem encode_wf (i : Instr) : (encode i).wf = true := by
  cases hf : i.format with
  | T => rw [eq_sample_of_format hf]; rfl
  | H => rw [encode_of_host hf]; exact decide_eq_true (BitVec.isLt _)

/-- Encoding what a host word decodes to gives back its code, and its operand if it is a SET_POSITION (R43, R48). -/
theorem encode_decodeH (h : HReq) :
    encode (decodeH h) = ⟨.H, (cmdField h).toNat * 65536 + (decodeH h).wdata.toNat⟩ := by
  rw [encode_of_host (decodeH_format h), hreqOf_toNat, (decodeH_fields h).1]

/-- A host word as a number is its code times 2^16 plus its operand bits (R40). -/
theorem hreq_toNat_eq (h : HReq) : h.toNat = (cmdField h).toNat * 65536 + (wdataField h).toNat := by
  rw [← hreqOf_toNat, hreqOf_fields]

/-- Settles O4: the words that decode are SAMPLE's one and the host words (`decode_eq_ok_iff`), and a host word and the encoding
of what it decodes to share the code above bit 16. -/
theorem decodeInvertsEncode : Obligations.DecodeInvertsEncode := by
  refine ⟨fun i => ⟨encode_wf i, decode_encode i⟩, fun w i hdec => ?_⟩
  rcases decode_eq_ok_iff.1 hdec with ⟨rfl, rfl⟩ | ⟨h, rfl, rfl⟩
  · exact ⟨rfl, rfl, fun _ => rfl, fun _ hset => by cases hset⟩
  · rw [encode_decodeH, hreq_toNat_eq h]
    refine ⟨rfl, ?sameHighBits, fun hT => ?notSampler, fun v hset => ?setPosition⟩
    case sameHighBits =>
      have := (wdataField h).isLt
      have := (decodeH h).wdata.isLt
      simp only
      omega
    case notSampler =>
      rw [decodeH_format] at hT
      cases hT
    case setPosition =>
      have hoperand : (decodeH h).wdata = wdataField h := by
        rw [hset]
        exact (decodeH_fields h).2 v hset
      rw [hoperand]

/-- The mask 0x70000 keeps the code and clears the operand bits (R45). -/
theorem hreq_and_mask (w : HReq) : w &&& 0x70000 = hreqOf (cmdField w) 0 := by
  have hmask : (0x70000 : HReq) = hreqOf (BitVec.allOnes 3) 0 := by decide
  apply BitVec.eq_of_getLsbD_eq
  intro k hk
  rw [hmask, BitVec.getLsbD_and, hreqOf_getLsbD, hreqOf_getLsbD, BitVec.getLsbD_allOnes]
  by_cases hlow : k < 16
  · simp [hlow]
  · simp [hlow, cmdField, show k - 16 < 3 by omega, show 16 + (k - 16) = k by omega]

/-- A word with the masked bits of an operation's row is that operation, and a SET_POSITION of its low sixteen bits. -/
theorem decodeH_of_row {w : HReq} (i : Instr) (hi : i.format = .H)
    (hoperand : ∀ v, i = .setPosition v → v = wdataField w) (hrow : w &&& 0x70000 = hreqOf i.cmd 0) :
    decodeH w = i := by
  have hcmd : cmdField w = i.cmd := by
    rw [← cmdField_hreqOf (cmdField w) 0, ← hreq_and_mask, hrow, cmdField_hreqOf]
  cases i
  case sample => cases hi
  case setPosition v => simp [decodeH, hcmd, Instr.cmd, hoperand v rfl]
  all_goals simp [decodeH, hcmd, Instr.cmd]

/-- Settles O2: the masked word is the code above zeros (`hreq_and_mask`), and the code selects the operation. -/
theorem hostWordsDecodeByMatchAndMask : Obligations.HostWordsDecodeByMatchAndMask := by
  intro w
  have hwdata : w.setWidth 16 = wdataField w := BitVec.setWidth_eq_extractLsb' (by decide)
  exact ⟨decodeH_of_row .nop rfl nofun, decodeH_of_row .init rfl nofun, decodeH_of_row .getDelta rfl nofun,
    decodeH_of_row .getPosition rfl nofun,
    fun (hrow : _ = hreqOf 0b100 0) => decodeH_of_row (.setPosition _) rfl
      (fun _ hset => (Instr.setPosition.inj hset).symm.trans hwdata) hrow,
    decodeH_of_row .button rfl nofun, decodeH_of_row .rsvd6 rfl nofun, decodeH_of_row .rsvd7 rfl nofun⟩

/-- `tooWide` is answered exactly on numbers with bits the format does not have (log entry 7). -/
theorem decode_eq_tooWide_iff (w : PortWord) :
    decode w = .error .tooWide ↔ 2 ^ w.format.width ≤ w.bits := by
  match w with
  | ⟨.T, n⟩ =>
    rw [decode_sampler]
    show _ ↔ 2 ≤ n
    rcases n with _ | _ | n <;> simp
  | ⟨.H, n⟩ =>
    show _ ↔ 2 ^ 19 ≤ n
    constructor
    · intro hwide
      by_contra hn
      rw [decode_host_of_lt (not_le.1 hn)] at hwide
      cases hwide
    · exact decode_host_of_le

/-- `noSample` is answered exactly on the sampler port's word 0 (R51). -/
theorem decode_eq_noSample_iff (w : PortWord) : decode w = .error .noSample ↔ w = ⟨.T, 0⟩ := by
  match w with
  | ⟨.T, n⟩ =>
    rw [decode_sampler]
    rcases n with _ | _ | n <;> simp
  | ⟨.H, n⟩ =>
    by_cases hn : n < 2 ^ 19
    · simp [decode_host_of_lt hn]
    · simp [decode_host_of_le (not_lt.1 hn)]

/-- Settles O3: host decoding is total (R49), and the two refusals are said word by word. -/
theorem everyPortWordDecodesOrIsNamed : Obligations.EveryPortWordDecodesOrIsNamed :=
  ⟨fun w => ⟨decodeH w, decode_host_word w, decodeH_format w⟩, decode_eq_tooWide_iff, decode_eq_noSample_iff⟩

/-- Settles O1: each word is evaluated. -/
theorem encodingWordsDecode : Obligations.EncodingWordsDecode := by
  unfold Obligations.EncodingWordsDecode
  decide

/-! ## Port words in a cycle -/

/-- Settles O5: the host field of a well-formed cycle is a host operation, which its own code and operand decode to. -/
theorem traceCycleDrivesItsPorts : Obligations.TraceCycleDrivesItsPorts := by
  intro c hwf
  have hhost : c.host.format = .H := by
    simp only [TraceCycle.wf, TraceCycle.hostIsHostOp, Bool.and_eq_true, decide_eq_true_eq] at hwf
    exact hwf.1.1
  exact ⟨rfl, rfl, decodeH_of_encoded c.host hhost, rfl, rfl, rfl⟩

/-- A placed table word decodes to SAMPLE, and its cycle is SAMPLE beside NOP, or to a host operation, and its cycle is that
operation alone (log entry 6). -/
theorem inputsOfTableWord_of_decoded {nbits w : Nat} {i : Instr} (h : decodeTableWord nbits w = some i)
    (lines : Inputs) :
    (i = .sample ∧ (inputsOfTableWord lines nbits w).tick = true ∧
      decodeH (inputsOfTableWord lines nbits w).hreq = .nop) ∨
    (i.format = .H ∧ (inputsOfTableWord lines nbits w).tick = false ∧
      decodeH (inputsOfTableWord lines nbits w).hreq = i) := by
  have hdec : decode ⟨formatOfTableWidth nbits, w⟩ = .ok i := by
    simp only [decodeTableWord] at h
    split at h
    next heq => rw [heq, Option.some.inj h]
    next => cases h
  rcases decode_eq_ok_iff.1 hdec with ⟨hword, rfl⟩ | ⟨x, hword, rfl⟩
  · obtain ⟨hformat, hbits⟩ := PortWord.mk.inj hword
    simp [inputsOfTableWord, hformat, hbits, decodeH_hreq]
  · obtain ⟨hformat, hbits⟩ := PortWord.mk.inj hword
    simp [inputsOfTableWord, hformat, hbits, decodeH_format, Inputs.hreq]

/-- A table word's cycle is without reset and has the lines and the button as they were (log entry 6). -/
theorem inputsOfTableWord_levels (lines : Inputs) (nbits w : Nat) :
    (inputsOfTableWord lines nbits w).rst = false ∧ (inputsOfTableWord lines nbits w).a = lines.a ∧
      (inputsOfTableWord lines nbits w).b = lines.b ∧ (inputsOfTableWord lines nbits w).btnN = lines.btnN := by
  simp only [inputsOfTableWord]
  cases formatOfTableWidth nbits <;> exact ⟨rfl, rfl, rfl, rfl⟩

/-- Settles O7: the placed cycle is the next one, and O6 says what it runs. -/
theorem placedTableWordRuns : Obligations.PlacedTableWordRuns := by
  intro s nbits w i hword
  obtain ⟨hrst, ha, hb, hbtn⟩ := inputsOfTableWord_levels s.ports nbits w
  obtain ⟨halone, hsample⟩ := stepRunsTheDecodedOperations (s.withFetchWord nbits w) _ _
    (placeInputs_pending s (inputsOfTableWord s.ports nbits w)) hrst
  refine ⟨inputsOfTableWord s.ports nbits w, ha, hb, hbtn, ?_⟩
  rcases inputsOfTableWord_of_decoded hword s.ports with ⟨rfl, hk, hhost⟩ | ⟨hH, hk, hhost⟩
  · obtain ⟨t, ht, hstep⟩ := hsample hk
    exact ⟨nofun, fun _ => ⟨t, ht, hhost ▸ hstep⟩⟩
  · exact ⟨fun _ => hhost ▸ halone hk, fun hT => nomatch hH.symm.trans hT⟩

/-! ## The response ports of a cycle (R44, R46) -/

/-- The outputs of a cycle are of three shapes, which `responds` and `raises` tell apart. -/
theorem cycled_out_cases (inp : Inputs) (s : State) :
    (responds inp = true ∧ raises inp = false ∧ ∃ v, (cycled inp s).out = respondOutputs v) ∨
    (responds inp = false ∧ raises inp = true ∧ (cycled inp s).out = cmdErrorOutputs) ∨
    (responds inp = false ∧ raises inp = false ∧ (cycled inp s).out = quietOutputs) := by
  cases hr : inp.rst
  · rw [cycled_of_no_rst hr]
    rcases cmd_cases inp.cmd with h | h | h | h | h | h | h | h <;> simp [responds, raises, hosted, hr, h]
  · rw [cycled_of_rst hr]
    simp [responds, raises, hr]

theorem cycled_rvalid (inp : Inputs) (s : State) : (cycled inp s).out.rvalid = responds inp := by
  rcases cycled_out_cases inp s with ⟨hv, -, v, ho⟩ | ⟨hv, -, ho⟩ | ⟨hv, -, ho⟩ <;> rw [ho, hv] <;> rfl

theorem cycled_err (inp : Inputs) (s : State) : (cycled inp s).out.err = raises inp := by
  rcases cycled_out_cases inp s with ⟨-, he, v, ho⟩ | ⟨-, he, ho⟩ | ⟨-, he, ho⟩ <;> rw [ho, he] <;> rfl

/-- Without a response `rdata` is 0 (R44). -/
theorem cycled_rdata_of_no_response {inp : Inputs} (h : responds inp = false) (s : State) :
    (cycled inp s).out.rdata = 0 := by
  rcases cycled_out_cases inp s with ⟨hv, -⟩ | ⟨-, -, ho⟩ | ⟨-, -, ho⟩
  · rw [h] at hv; cases hv
  · rw [ho]; rfl
  · rw [ho]; rfl

/-- The widened button is a number (R46). -/
theorem zext16_not (level : Bool) : zext16 (!level) = if level then 0 else 1 := by
  cases level <;> rfl

theorem responds_iff (inp : Inputs) :
    responds inp = true ↔ inp.rst = false ∧ (inp.cmd = 0b010 ∨ inp.cmd = 0b011 ∨ inp.cmd = 0b101) := by
  simp [responds, or_assoc]

theorem raises_iff (inp : Inputs) :
    raises inp = true ↔ inp.rst = false ∧ (inp.cmd = 0b110 ∨ inp.cmd = 0b111) := by
  simp [raises]

/-- No cycle both responds and raises a CmdError: their codes differ. -/
theorem not_responds_and_raises (inp : Inputs) : ¬ (responds inp = true ∧ raises inp = true) := by
  rw [responds_iff, raises_iff]
  rintro ⟨⟨-, hresponds⟩, -, hraises⟩
  rcases hresponds with hc | hc | hc <;> simp [hc] at hraises

/-- Settles O36: the responses are `position`, the sign-extended `delta` and the zero-extended button. -/
theorem responsesAreWidenedToThePort : Obligations.ResponsesAreWidenedToThePort := by
  refine fun s t => ⟨fun h => ?getPosition, fun h => ?getDelta, fun h => ?button⟩
  all_goals cases h
  case getPosition => rfl
  case getDelta =>
    refine ⟨sext16_toInt s.delta, fun k hk => ?_⟩
    show (sext16 s.delta).getLsbD k = _
    rw [sext16, BitVec.getLsbD_signExtend, BitVec.msb_eq_getLsbD_last]
    by_cases hlow : k < 8
    · simp [hk, hlow, show min k 7 = k by omega]
    · simp [hk, hlow, show min k 7 = 7 by omega]
  case button =>
    intro k hk
    show (zext16 (!s.ports.btnN)).getLsbD k = _
    rw [zext16, BitVec.getLsbD_setWidth, BitVec.getLsbD_ofBool]
    simp [hk]

/-- What SAMPLE alone does in a cycle is the sampler's part. -/
theorem sampler_part_eq (s : State) :
    (if s.ports.tick then exec .sample s else .next s) = .next (sampled s) := by
  cases hk : s.ports.tick
  · rw [sampled_of_no_tick hk]; rfl
  · rw [sampled_of_tick hk, ← exec_sample_eq]; rfl

/-- Settles O41: the signals are `responds` and `raises` of the cycle's inputs, and the three responses are the host port's laws
on what the sampler left. -/
theorem responseSignalsFollowTheCommand : Obligations.ResponseSignalsFollowTheCommand := by
  intro s t h
  obtain ⟨u, hcycle, htake, -⟩ := step_next_is_cycle h
  rw [htake]
  generalize t.ports = inp at hcycle
  subst hcycle
  refine ⟨?rvalid, ?err, ?never, ?idle, fun hr => ⟨_, sampler_part_eq (u.setPorts inp), fun hc => ?getDelta,
    fun hc => ?getPosition, fun hc => ?button⟩⟩
  case rvalid => rw [cycled_rvalid, responds_iff]
  case err => rw [cycled_err, raises_iff]
  case never => rw [cycled_rvalid, cycled_err]; exact not_responds_and_raises inp
  case idle => rw [cycled_rvalid]; exact fun hv => cycled_rdata_of_no_response hv u
  case getDelta => rw [cycled_out_of_getDelta hr hc]; exact sext16_toInt _
  case getPosition =>
    rw [cycled_out_of_getPosition hr hc, cycled_position_of_no_rst hr]
    simp [hc, respondOutputs]
  case button => rw [cycled_out_of_button hr hc]; exact zext16_not _

/-! ## The record of a completed cycle -/

/-- A cycle leaves a consistent record, whatever was recorded before it. -/
theorem consistent_cycled (inp : Inputs) (s : State) : Consistent (cycled inp s) where
  rvalid_iff := by rw [cycled_rvalid, cycled_ports]
  err_iff := by rw [cycled_err, cycled_ports]
  rdata_idle hv := by
    rw [cycled_rvalid] at hv
    exact cycled_rdata_of_no_response hv s
  err_recorded he := by
    rw [cycled_err] at he
    have hfault := congrArg State.fault (cycled_with_fault inp s s.fault)
    rwa [if_pos he] at hfault
  lines_kept hsampling := by
    rw [cycled_ports] at hsampling ⊢
    rw [cycled_lastState, if_pos hsampling]
    exact ⟨lineState_bit_a _ _, lineState_bit_b _ _⟩
  start_zero hstart := by
    rw [cycled_ports] at hstart
    cases hr : inp.rst
    · have hc : inp.cmd = 0b001 := by simpa [hr] using hstart
      rw [cycled_position_of_no_rst hr, cycled_delta_of_no_rst hr]
      exact ⟨if_pos hc, if_pos (.inl hc)⟩
    · rw [cycled_of_rst hr]
      exact ⟨rfl, rfl⟩
  delta_consumed hr hc := by
    rw [cycled_ports] at hr hc
    rw [cycled_delta_of_no_rst hr, if_pos (.inr (.inl hc))]
  position_shown hr hc := by
    rw [cycled_ports] at hr hc
    rw [cycled_out_of_getPosition hr hc]
    rfl
  position_set hr hc := by
    rw [cycled_ports] at hr hc ⊢
    rw [cycled_position_of_no_rst hr, cycled_delta_of_no_rst hr]
    simp [hc]
  button_shown hr hc := by
    rw [cycled_ports] at hr hc ⊢
    rw [cycled_out_of_button hr hc]
    exact zext16_not _

/-- Settles O46: a step that answers is a cycle, and a cycle leaves a consistent record from every state. -/
theorem stepKeepsTheRecordConsistent : Obligations.StepKeepsTheRecordConsistent := by
  intro s t _ h
  rw [step_next_eq_cycled h]
  exact consistent_cycled _ _

/-! ## Reserved codes and ignored inputs -/

/-- The sampler reads no input but `tick` and, in a SAMPLE, the lines (R48, R59). -/
theorem sampled_setPorts_of_same_sample {inp inp' : Inputs} (hk : inp.tick = inp'.tick)
    (hlines : inp.tick = true → inp.a = inp'.a ∧ inp.b = inp'.b) (s : State) :
    sampled (s.setPorts inp') = (sampled (s.setPorts inp)).setPorts inp' := by
  cases hk' : inp'.tick
  · rw [sampled_of_no_tick hk', sampled_of_no_tick (s := s.setPorts inp) (hk.trans hk')]
    rfl
  · obtain ⟨ha, hb⟩ := hlines (hk.trans hk')
    have hpresent : presentLines (s.setPorts inp) = presentLines (s.setPorts inp') :=
      congrArg₂ lineState ha hb
    rw [sampled_of_tick hk', sampled_of_tick (s := s.setPorts inp) (hk.trans hk'), hpresent]
    rfl

/-- What a reserved code's cycle leaves is what a NOP's leaves, but for the ports, the outputs and the record (R47, R82). -/
theorem cycled_of_reserved {inp : Inputs} (hr : inp.rst = false) (hc : inp.cmd = 0b110 ∨ inp.cmd = 0b111)
    (s : State) :
    cycled inp s = { cycled { inp with cmd := 0b000 } s with
      ports := inp, out := cmdErrorOutputs, fault := some .cmdError } := by
  rw [cycled_of_no_rst hr, cycled_of_no_rst (inp := { inp with cmd := 0b000 }) hr,
    sampled_setPorts_of_same_sample (inp := inp) (inp' := { inp with cmd := 0b000 }) rfl fun _ => ⟨rfl, rfl⟩]
  have hports : (sampled (s.setPorts inp)).ports = inp := sampled_ports _
  generalize sampled (s.setPorts inp) = u at hports
  rcases hc with hc | hc <;> simp [hosted, hc, State.setPorts, hports]

/-- Settles O19: the two cycles are `cycled_of_reserved`'s, and `err` of the next one is read off its own inputs. -/
theorem cmdErrorIsHarmlessAndNotLatched : Obligations.CmdErrorIsHarmlessAndNotLatched := by
  intro s inp rest hpending hr hc
  refine ⟨_, _, step_of_settled hpending, step_of_settled rfl, cycled_of_reserved hr hc _, fun u hu hraises => ?_⟩
  rw [step_next_eq_cycled hu, cycled_err, hraises]

/-- Without reset, inputs that agree on `tick`, on `cmd` and on what the two operations read leave the same registers, outputs
and record (R48). -/
theorem cycled_congr_of_read_inputs {inp inp' : Inputs} (hr : inp.rst = false) (hr' : inp'.rst = false)
    (hk : inp.tick = inp'.tick) (hc : inp.cmd = inp'.cmd) (hwdata : inp.cmd = 0b100 → inp.wdata = inp'.wdata)
    (hbutton : inp.cmd = 0b101 → inp.btnN = inp'.btnN)
    (hlines : inp.tick = true ∨ inp.cmd = 0b001 → inp.a = inp'.a ∧ inp.b = inp'.b) (s : State) :
    registers (cycled inp s) = registers (cycled inp' s) ∧ (cycled inp s).out = (cycled inp' s).out ∧
      (cycled inp s).fault = (cycled inp' s).fault := by
  rw [cycled_of_no_rst hr, cycled_of_no_rst hr',
    sampled_setPorts_of_same_sample hk (fun hsample => hlines (.inl hsample))]
  simp only [hosted, registers, Prod.mk.injEq, ← hc]
  refine ⟨⟨ite_congr rfl (fun hinit => ?lines) fun _ => rfl,
    ite_congr rfl (fun _ => rfl) fun _ => ite_congr rfl hwdata fun _ => rfl, rfl⟩,
    ite_congr rfl (fun _ => rfl) fun _ => ite_congr rfl (fun _ => rfl) fun _ =>
      ite_congr rfl (fun hread => ?button) fun _ => rfl, rfl⟩
  case lines =>
    obtain ⟨ha, hb⟩ := hlines (.inr hinit)
    simp [presentLines, ha, hb]
  case button => simp [pressed, hbutton hread]

/-- Settles O42: under reset the two cycles read the lines alone, and without it `cycled_congr_of_read_inputs`. -/
theorem ignoredInputsDoNotMatter : Obligations.IgnoredInputsDoNotMatter := by
  intro s inp inp' rest hrst hports hwdata hbutton hlines
  refine ⟨_, _, step_of_settled rfl, step_of_settled rfl, ?_⟩
  cases hr : inp.rst
  · obtain ⟨hk, hc⟩ := hports hr
    exact cycled_congr_of_read_inputs hr (hrst.symm.trans hr) hk hc (hwdata hr) (hbutton hr)
      (fun hread => hlines (.inr hread)) _
  · obtain ⟨ha, hb⟩ := hlines (.inl hr)
    rw [cycled_of_rst hr, cycled_of_rst (hrst.symm.trans hr)]
    simp [registers, presentLines, ha, hb]

/-! ## Turning and holding (R54) -/

/-- `k` SAMPLEs, each of the line state that `next` gives for the one before: the shape of the turns and of HOLD. -/
def walk (next : LineState → LineState) : Nat → LineState → List TraceCycle
  | 0, _ => []
  | k + 1, l => sampleOf (next l) :: walk next k (next l)

theorem turnUp_eq_walk : ∀ (k : Nat) (l : LineState), turnUp k l = walk lineAfter k l
  | 0, _ => rfl
  | k + 1, l => congrArg (sampleOf (lineAfter l) :: ·) (turnUp_eq_walk k (lineAfter l))

theorem turnDown_eq_walk : ∀ (k : Nat) (l : LineState), turnDown k l = walk lineBefore k l
  | 0, _ => rfl
  | k + 1, l => congrArg (sampleOf (lineBefore l) :: ·) (turnDown_eq_walk k (lineBefore l))

theorem holdTrace_eq_walk : ∀ (k : Nat) (l : LineState), holdTrace k l = walk id k l
  | 0, _ => rfl
  | k + 1, l => congrArg (sampleOf l :: ·) (holdTrace_eq_walk k l)

/-- The cycle of a SAMPLE of `l` counts the rotation to `l` and leaves `l` (R58). -/
theorem cycled_sampleOf (l : LineState) (s : State) :
    let t := cycled (inputsOfTraceCycle (sampleOf l)) s
    t.lastState = l ∧ t.position = stepPosition s.position (turnOf s.lastState l) ∧
      t.delta = stepDelta s.deltaMode s.delta (turnOf s.lastState l) ∧ t.deltaMode = s.deltaMode := by
  have hk : (s.setPorts (inputsOfTraceCycle (sampleOf l))).ports.tick = true := rfl
  have hl : presentLines (s.setPorts (inputsOfTraceCycle (sampleOf l))) = l := lineState_of_bits l
  rw [cycled_of_no_rst rfl, sampled_of_tick hk, hl]
  exact ⟨rfl, rfl, rfl, rfl⟩

/-- Writing down the trace that is written down already changes nothing. -/
theorem loadTrace_of_pending {tr : List TraceCycle} {s : State}
    (h : s.pending = tr.map fun c => .settled (inputsOfTraceCycle c)) : loadTrace tr s = s := by
  rw [loadTrace, ← h]

/-- A run of a trace is its first cycle and then a run of the rest of the trace. -/
theorem runSteps_loadTrace_cons (c : TraceCycle) (tr : List TraceCycle) (k : Nat) (s : State) :
    runSteps (k + 1) (loadTrace (c :: tr) s) =
      runSteps k (loadTrace tr (cycled (inputsOfTraceCycle c) (loadTrace tr s))) := by
  have hloaded := loadTrace_of_pending (tr := tr) (cycled_pending (inputsOfTraceCycle c) (loadTrace tr s))
  rw [runSteps_of_settled k rfl, hloaded]
  rfl

/-- A walk whose every SAMPLE counts `d` steps both counters by `d` that many times. -/
theorem runSteps_walk {next : LineState → LineState} {d : Int} (hturn : ∀ l, turnOf l (next l) = d) :
    ∀ (k : Nat) (s : State), ∃ t, runSteps k (loadTrace (walk next k s.lastState) s) = .next t ∧
      t.lastState = next^[k] s.lastState ∧ t.position = (stepPosition · d)^[k] s.position ∧
      t.delta = (stepDelta s.deltaMode · d)^[k] s.delta
  | 0, s => ⟨_, rfl, rfl, rfl, rfl⟩
  | k + 1, s => by
    obtain ⟨hl, hp, hd, hmode⟩ := cycled_sampleOf (next s.lastState)
      (loadTrace (walk next k (next s.lastState)) s)
    rw [walk, runSteps_loadTrace_cons]
    generalize cycled _ _ = u at hl hp hd hmode ⊢
    obtain ⟨t, hrun, ht⟩ := runSteps_walk hturn k u
    rw [hl] at hrun
    rw [hl, hp, hd, hmode] at ht
    refine ⟨t, hrun, ?_⟩
    simpa only [Function.iterate_succ_apply, loadTrace, hturn] using ht

/-- `k` steps of `d` move `position` by `k * d` modulo 2^16 (R65). -/
theorem stepPosition_iterate (d : Int) (k : Nat) (p : Count) :
    (stepPosition · d)^[k] p = p + k • BitVec.ofInt 16 d := by
  simp only [stepPosition_eq_add]
  exact congrFun (add_right_iterate _ k) p

/-- `k` steps of `d` move `delta` by `k * d` modulo 2^8 in a WRAP build (R67). -/
theorem stepDelta_wrap_iterate (d : Int) (k : Nat) (v : Delta) :
    (stepDelta .wrap · d)^[k] v = v + k • BitVec.ofInt 8 d := by
  simp only [stepDelta_wrap_eq_add]
  exact congrFun (add_right_iterate _ k) v

/-- `k` steps up move `delta` up to +127 at most in a SATURATE build (R66). -/
theorem stepDelta_saturate_up_iterate : ∀ (k : Nat) (v : Delta),
    ((stepDelta .saturate · 1)^[k] v).toInt = min 127 (v.toInt + k)
  | 0, v => by
    have := BitVec.toInt_lt (x := v)
    simp only [Function.iterate_zero, id]
    omega
  | k + 1, v => by
    have := BitVec.le_toInt v
    rw [Function.iterate_succ_apply, stepDelta_saturate_up_iterate k, stepDelta_saturate_toInt]
    omega

/-- `k` steps down move `delta` down to -128 at least in a SATURATE build (R66). -/
theorem stepDelta_saturate_down_iterate : ∀ (k : Nat) (v : Delta),
    ((stepDelta .saturate · (-1))^[k] v).toInt = max (-128) (v.toInt - k)
  | 0, v => by
    have := BitVec.le_toInt v
    simp only [Function.iterate_zero, id]
    omega
  | k + 1, v => by
    have := BitVec.toInt_lt (x := v)
    rw [Function.iterate_succ_apply, stepDelta_saturate_down_iterate k, stepDelta_saturate_toInt]
    omega

/-- `k` ones are `k`. -/
theorem nsmul_ofInt_one (w k : Nat) : k • BitVec.ofInt w 1 = BitVec.ofNat w k := by
  have hone : BitVec.ofInt w 1 = 1 := BitVec.ofInt_natCast w 1
  rw [hone, nsmul_one, BitVec.natCast_eq_ofNat]

/-- Settles O49: TURN+ is the walk whose every SAMPLE counts +1. -/
theorem turningUpCountsAndSaturates : Obligations.TurningUpCountsAndSaturates := by
  intro k s _
  obtain ⟨t, hrun, -, hp, hd⟩ := runSteps_walk turnOf_lineAfter k s
  refine ⟨t, turnUp_eq_walk k s.lastState ▸ hrun, ?position, fun hmode => ?saturate, fun hmode => ?wrap⟩
  case position => rw [hp, stepPosition_iterate, nsmul_ofInt_one]
  case saturate => rw [hd, hmode, stepDelta_saturate_up_iterate]
  case wrap => rw [hd, hmode, stepDelta_wrap_iterate, nsmul_ofInt_one]

/-- Settles O50: TURN- is the walk whose every SAMPLE counts -1. -/
theorem turningDownCountsAndSaturates : Obligations.TurningDownCountsAndSaturates := by
  intro k s _
  obtain ⟨t, hrun, -, hp, hd⟩ := runSteps_walk turnOf_lineBefore k s
  refine ⟨t, turnDown_eq_walk k s.lastState ▸ hrun, ?position, fun hmode => ?saturate, fun hmode => ?wrap⟩
  case position =>
    rw [hp, stepPosition_iterate, BitVec.ofInt_neg, smul_neg, nsmul_ofInt_one, sub_eq_add_neg]
  case saturate => rw [hd, hmode, stepDelta_saturate_down_iterate]
  case wrap =>
    rw [hd, hmode, stepDelta_wrap_iterate, BitVec.ofInt_neg, smul_neg, nsmul_ofInt_one, sub_eq_add_neg]

/-- Settles O51: HOLD is the walk that stays, and its SAMPLEs count 0. -/
theorem holdingCountsNothing : Obligations.HoldingCountsNothing := by
  intro k s _
  obtain ⟨t, hrun, hl, hp, hd⟩ := runSteps_walk (next := id) turnOf_self k s
  refine ⟨t, holdTrace_eq_walk k s.lastState ▸ hrun, Prod.ext ?lines (Prod.ext ?position ?delta)⟩
  case lines => exact hl.trans (Function.iterate_fixed rfl k)
  case position => exact hp.trans (Function.iterate_fixed (stepPosition_zero _) k)
  case delta => exact hd.trans (Function.iterate_fixed (stepDelta_zero _ _) k)

end Sys2Proof.Proofs

namespace Sys2Proof.Proofs

open Sys2Proof.Machine

/-! ## INIT beside SAMPLE (R55) -/

/-- A SAMPLE that sees the lines of `last_state` counts 0 and changes nothing (R62). -/
theorem exec_sample_of_lines_unchanged {s : State} (h : s.lastState = presentLines s) :
    exec .sample s = .next s := by
  rw [exec_sample_eq, ← h, turnOf_self, stepPosition_zero, stepDelta_zero]
  rfl

/-- INIT overwrites all that a SAMPLE of the same cycle has written (R30, R55). -/
theorem exec_init_of_sampled {s u : State} (h : exec .sample s = .next u) : exec .init u = exec .init s := by
  rw [exec_sample_eq] at h
  cases h
  rfl

/-- Settles O15: INIT reads nothing but the lines, so neither an INIT nor a SAMPLE before it shows in what it leaves, and the
SAMPLE after it sees the lines it has just seeded. -/
theorem initSeedsAndZeroes : Obligations.InitSeedsAndZeroes := by
  refine fun s => ⟨noResponse (seedFromLines s), rfl, ?wholeState, ?initAgain, fun u hu => ?afterSample,
    ?sampleAfter⟩
  case wholeState => exact ⟨presentLines s, lineState_bit_a _ _, lineState_bit_b _ _, rfl⟩
  case initAgain => rfl
  case afterSample => exact exec_init_of_sampled hu
  case sampleAfter => exact exec_sample_of_lines_unchanged rfl

end Sys2Proof.Proofs

namespace Sys2Proof.Proofs

open Sys2Proof.Machine
open Sys2Proof.Safety

/-! ## `position` over a run (R65) -/

/-- The position invariant along a run, by induction on its cycles; a cycle that raises a CmdError keeps it too. -/
theorem runSteps_position_eq_add_sum : ∀ {n : Nat} {s t : State}, runSteps n s = .next t → HoldsAlong Keeps n s →
    t.position = s.position + BitVec.ofInt 16 (sumOver counted n s)
  | 0, s, t, hrun, _ => by
    cases hrun
    simp [sumOver]
  | n + 1, s, t, hrun, hkeeps => by
    obtain ⟨u, hstep, hrest⟩ := runSteps_succ_inv hrun
    obtain ⟨hkeep, hkeeps⟩ := (holdsAlong_succ hstep).1 hkeeps
    have hfirst := (everyCycleCountsItsStep s u hstep hkeep).1
    have hlater := runSteps_position_eq_add_sum hrest hkeeps
    rw [hlater, hfirst, sumOver_succ hstep, BitVec.ofInt_add, BitVec.add_assoc]

/-- Settles O47: the sum of O55's equation over the run (`runSteps_position_eq_add_sum`). -/
theorem positionIsTheSumOfSteps : Obligations.PositionIsTheSumOfSteps :=
  fun _ _ _ hrun _ hkeeps => runSteps_position_eq_add_sum hrun hkeeps

/-! ## The transition table (R60 to R63) -/

/-- The closed form of R60: which line leads the other. -/
theorem stepOf_closed_form (l n : LineState) :
    stepOf l n = ((l.getLsbD 1 ^^ n.getLsbD 0).toNat : Int) - ((l.getLsbD 0 ^^ n.getLsbD 1).toNat : Int) := by
  revert l n; decide

/-- A double-bit change counts 0 (R63). -/
theorem turnOf_of_both_changed {l n : LineState} (ha : l.getLsbD 1 ≠ n.getLsbD 1)
    (hb : l.getLsbD 0 ≠ n.getLsbD 0) : turnOf l n = 0 := by
  revert l n; decide

/-- A step is odd exactly when one of the two lines has changed (R61 to R63). -/
theorem turnOf_bit_zero (l n : LineState) : (BitVec.ofInt 16 (turnOf l n)).getLsbD 0 =
    ((l.getLsbD 1 ^^ l.getLsbD 0) ^^ (n.getLsbD 1 ^^ n.getLsbD 0)) := by
  revert l n; decide

/-- Settles O21: the table's sixteen entries are read off it, and the closed form is `stepOf_closed_form`. -/
theorem transitionTableEntries : Obligations.TransitionTableEntries := by
  refine ⟨?forward, ?back, ?equal, ?double, stepOf_closed_form⟩
  all_goals decide

/-! ## What a SAMPLE does to the counters (R65 to R68) -/

/-- A zero step writes only `last_state` (R68). -/
theorem exec_sample_of_turnOf_zero {s : State} (h : turnOf s.lastState (presentLines s) = 0) :
    exec .sample s = .next { s with lastState := presentLines s } := by
  rw [exec_sample_eq, h, stepPosition_zero, stepDelta_zero]
  rfl

/-- Off the two cases of R66 and R67 a step passes no bound, and either build counts it exactly. -/
theorem stepDelta_toInt_of_passes_no_bound (mode : DeltaMode) {d : Delta} {k : Int} (hk : k = -1 ∨ k = 0 ∨ k = 1)
    (hup : ¬ (d.toInt = 127 ∧ k = 1)) (hdown : ¬ (d.toInt = -128 ∧ k = -1)) :
    (stepDelta mode d k).toInt = d.toInt + k := by
  have hmin : -128 ≤ d.toInt := BitVec.le_toInt d
  have hmax : d.toInt < 128 := BitVec.toInt_lt
  exact stepDelta_toInt_of_inBounds mode d k (by omega) (by omega)

/-- The three cases of R66. -/
theorem stepDelta_saturate_cases (d : Delta) {k : Int} (hk : k = -1 ∨ k = 0 ∨ k = 1) :
    if d.toInt = 127 ∧ k = 1 then (stepDelta .saturate d k).toInt = 127
    else if d.toInt = -128 ∧ k = -1 then (stepDelta .saturate d k).toInt = -128
    else (stepDelta .saturate d k).toInt = d.toInt + k := by
  split_ifs with hup hdown
  · rw [stepDelta_saturate_toInt, hup.1, hup.2]; rfl
  · rw [stepDelta_saturate_toInt, hdown.1, hdown.2]; rfl
  · exact stepDelta_toInt_of_passes_no_bound .saturate hk hup hdown

/-- The three cases of R67. -/
theorem stepDelta_wrap_cases (d : Delta) {k : Int} (hk : k = -1 ∨ k = 0 ∨ k = 1) :
    if d.toInt = 127 ∧ k = 1 then stepDelta .wrap d k = 0x80
    else if d.toInt = -128 ∧ k = -1 then stepDelta .wrap d k = 0x7F
    else (stepDelta .wrap d k).toInt = d.toInt + k := by
  split_ifs with hup hdown
  · apply BitVec.eq_of_toInt_eq
    rw [stepDelta_wrap_toInt, hup.1, hup.2]; rfl
  · apply BitVec.eq_of_toInt_eq
    rw [stepDelta_wrap_toInt, hdown.1, hdown.2]; rfl
  · exact stepDelta_toInt_of_passes_no_bound .wrap hk hup hdown

/-- Settles O23: the state is `exec_sample_eq`'s, and each counter's law gives its signed value. -/
theorem sampleCountsTheRotation : Obligations.SampleCountsTheRotation := by
  refine fun s => ⟨_, _, _, exec_sample_eq s, lineState_bit_a _ _, lineState_bit_b _ _, fun hzero => ?zeroStep,
    stepPosition_toInt _ _, fun hsaturate => ?saturate, fun hwrap => ?wrap⟩
  case zeroStep => simp [hzero]
  case saturate => rw [hsaturate]; exact stepDelta_saturate_toInt _ _
  case wrap => rw [hwrap]; exact stepDelta_wrap_toInt _ _

/-- Settles O24: `position` is `stepPosition`'s, evaluated at both ends and at a zero step. -/
theorem samplePositionWraps : Obligations.SamplePositionWraps := by
  intro s
  simp only [stepOf_eq_turnOf]
  refine ⟨_, exec_sample_eq s, rfl, stepPosition_toInt _ _, fun hp hk => ?top, fun hp hk => ?bottom,
    fun hk => ?zeroStep⟩
  case top => rw [hp, hk]; rfl
  case bottom => rw [hp, hk]; rfl
  case zeroStep => simp [hk]

/-- Settles O25: `delta` goes through the cases of `stepDelta_saturate_cases` while `position` counts as in either build. -/
theorem sampleDeltaSaturates : Obligations.SampleDeltaSaturates := by
  intro s hmode
  have hdelta := stepDelta_saturate_cases s.delta (turnOf_cases s.lastState (presentLines s))
  rw [← hmode] at hdelta
  simp only [stepOf_eq_turnOf]
  exact ⟨_, exec_sample_eq s, rfl, stepPosition_toInt _ _, hdelta⟩

/-- Settles O26: `delta` goes through the cases of `stepDelta_wrap_cases`, and no other field of `exec_sample_eq`'s state
depends on the build. -/
theorem sampleDeltaWraps : Obligations.SampleDeltaWraps := by
  intro s hmode
  have hdelta := stepDelta_wrap_cases s.delta (turnOf_cases s.lastState (presentLines s))
  rw [← hmode] at hdelta
  simp only [stepOf_eq_turnOf]
  refine ⟨_, exec_sample_eq s, hdelta, _, exec_sample_eq _, ?sameElsewhere⟩
  case sameElsewhere => exact State.eq_of_fields rfl rfl rfl hmode rfl rfl rfl rfl rfl

/-- Settles O27: the lines differ from `last_state` in both bits, so `turnOf_of_both_changed` applies; and
`exec_sample_of_turnOf_zero` is the state of a zero step. -/
theorem zeroStepMovesOnlyTheLines : Obligations.ZeroStepMovesOnlyTheLines := by
  intro s
  have hbitA : (presentLines s).getLsbD 1 = s.ports.a := lineState_bit_a _ _
  have hbitB : (presentLines s).getLsbD 0 = s.ports.b := lineState_bit_b _ _
  simp only [stepOf_eq_turnOf, ← hbitA, ← hbitB]
  exact ⟨turnOf_of_both_changed, fun hzero => ⟨_, rfl, rfl, exec_sample_of_turnOf_zero hzero⟩⟩

/-! ## The parity of `position` and the lines (R61 to R65) -/

/-- Bit 0 of a sum takes no carry. -/
theorem add_bit_zero (x y : Count) : (x + y).getLsbD 0 = (x.getLsbD 0 ^^ y.getLsbD 0) := by
  rw [BitVec.getLsbD_add (by decide), BitVec.carry_zero]; simp

/-- A cycle that forgets nothing counts the rotation that `last_state` makes in it; without a SAMPLE there is none. -/
theorem counted_eq_turnOf_lastState {s t : State} (h : step s = .next t) (hkeeps : Keeps s t) :
    counted s t = turnOf s.lastState t.lastState := by
  obtain ⟨hr, hinit, -⟩ := hkeeps
  have hlast : t.lastState = if samplingInstant t.ports then presentLines t else s.lastState :=
    (congrArg State.lastState (step_next_eq_cycled h)).trans (cycled_lastState _ _)
  rw [hlast]
  cases hk : t.ports.tick
  · have hno : samplingInstant t.ports = false := by simpa [samplingInstant, hr, hk] using hinit
    simp [counted, hk, hno]
  · have hyes : samplingInstant t.ports = true := by simp [samplingInstant, hk]
    simp [counted, hr, hk, hyes]

/-- Settles O31: `position` moves by the rotation of `last_state`, whose parity is the number of lines that changed
(`turnOf_bit_zero`). -/
theorem positionAndLinesKeepTheirParity : Obligations.PositionAndLinesKeepTheirParity := by
  intro s t h hkeeps
  have hposition := (everyCycleCountsItsStep s t h hkeeps).1
  rw [counted_eq_turnOf_lastState h hkeeps] at hposition
  rw [hposition, add_bit_zero, turnOf_bit_zero, Bool.xor_assoc _ (t.lastState.getLsbD 1), Bool.xor_assoc,
    Bool.xor_assoc _ (_ ^^ _), Bool.xor_self, Bool.xor_false, Bool.xor_assoc]

end Sys2Proof.Proofs

namespace Sys2Proof.Proofs

open Sys2Proof.Machine
open Sys2Proof.Safety

/-! ## The counter operations (R70 to R75) -/

/-- GET_DELTA answers the widened `delta` and zeroes it (R70). -/
theorem exec_getDelta_eq (s : State) :
    exec .getDelta s = .next { s with delta := 0, out := respondOutputs (sext16 s.delta) } := rfl

/-- GET_POSITION answers `position` (R72). -/
theorem exec_getPosition_eq (s : State) :
    exec .getPosition s = .next { s with out := respondOutputs s.position } := rfl

/-- SET_POSITION stores its operand and zeroes `delta` (R73, R74). -/
theorem exec_setPosition_eq (v : Count) (s : State) :
    exec (.setPosition v) s = .next { s with position := v, delta := 0, out := quietOutputs } := rfl

/-- Settles O32: the response is the widened `delta`, and widening keeps the signed value. -/
theorem getDeltaReadsAndClears : Obligations.GetDeltaReadsAndClears :=
  fun s => ⟨sext16 s.delta, sext16_toInt s.delta, exec_getDelta_eq s⟩

/-- Settles O33: `respondOutputs` raises no error. -/
theorem getPositionReads : Obligations.GetPositionReads := exec_getPosition_eq

/-- Settles O34: no operand is left out, and `quietOutputs` raises no error. -/
theorem setPositionStoresAndClears : Obligations.SetPositionStoresAndClears :=
  fun s v => exec_setPosition_eq v s

/-- Settles O37: no line level stands in what the three operations leave; only GET_POSITION keeps `delta`. -/
theorem counterOperationsLeaveTheLines : Obligations.CounterOperationsLeaveTheLines := by
  rintro i s a b (rfl | rfl | ⟨v, rfl⟩)
  case inl => exact ⟨_, _, exec_getDelta_eq s, exec_getDelta_eq _, rfl, rfl, rfl, .inr rfl⟩
  case inr.inl => exact ⟨_, _, exec_getPosition_eq s, exec_getPosition_eq _, rfl, rfl, rfl, .inl rfl⟩
  case inr.inr => exact ⟨_, _, exec_setPosition_eq v s, exec_setPosition_eq v _, rfl, rfl, rfl, .inr rfl⟩

/-! ## `delta` is consumed once (R71) -/

/-- A run over written cycles goes on, with the trace behind them and with every property of the registers that each of
the cycles keeps. -/
theorem runSteps_over_settled {P : LineState × Count × Delta → Prop} {rest : List Stimulus} :
    ∀ {inps : List Inputs} {s : State}, s.pending = inps.map .settled ++ rest →
    (∀ inp ∈ inps, ∀ u : State, P (registers u) → P (registers (cycled inp u))) → P (registers s) →
    ∃ v : State, (∀ n, runSteps (inps.length + n) s = runSteps n v) ∧ v.pending = rest ∧ P (registers v)
  | [], s, hpending, _, hs => ⟨s, fun n => by simp, hpending, hs⟩
  | inp :: inps, s, hpending, hkept, hs => by
    replace hpending : s.pending = .settled inp :: (inps.map .settled ++ rest) := hpending
    obtain ⟨hkept₀, hkept⟩ := List.forall_mem_cons.1 hkept
    obtain ⟨v, hrun, hv⟩ := runSteps_over_settled (rest := rest)
      (s := cycled inp { s with pending := inps.map .settled ++ rest }) (cycled_pending _ _) hkept
      (hkept₀ _ hs)
    refine ⟨v, fun n => ?_, hv⟩
    calc runSteps (inps.length + 1 + n) s
        = runSteps (inps.length + n + 1) s := by rw [Nat.add_right_comm]
      _ = runSteps n v := (runSteps_of_settled _ hpending).trans (hrun n)

/-- A cycle without SAMPLE does not move a `delta` of 0 (R17). -/
theorem cycled_delta_zero_of_no_sample {inp : Inputs} (hk : inp.tick = false) {s : State} (h : s.delta = 0) :
    (cycled inp s).delta = 0 :=
  (cycled_delta_of_no_sample (.inr hk) s).elim (·.trans h) id

/-- Without a SAMPLE in its cycle GET_DELTA answers the `delta` before the cycle (R70). -/
theorem cycled_out_of_getDelta_alone {inp : Inputs} (hr : inp.rst = false) (hk : inp.tick = false)
    (hc : inp.cmd = 0b010) (s : State) : (cycled inp s).out = respondOutputs (sext16 s.delta) := by
  rw [cycled_out_of_getDelta hr hc, sampled_of_no_tick hk]
  rfl

/-- Settles O38: the first GET_DELTA leaves a `delta` of 0, which no cycle without SAMPLE moves, so the last one answers it. -/
theorem deltaIsConsumedOnce : Obligations.DeltaIsConsumedOnce := by
  intro s first last between rest hpending hr hcFirst hcLast hquiet _
  obtain ⟨hrFirst, hr⟩ := List.forall_mem_cons.1 hr
  have hrLast : last.rst = false := hr last List.mem_concat_self
  have hkLast : last.tick = false := (hquiet last List.mem_concat_self).1
  have hpending₁ : s.pending =
      .settled first :: (between.map .settled ++ .settled last :: rest) := by simpa using hpending
  have hcleared : (cycled first
      { s with pending := between.map .settled ++ .settled last :: rest }).delta = 0 := by
    rw [cycled_delta_of_no_rst hrFirst, if_pos (.inr (.inl hcFirst))]
  obtain ⟨v, hrun, hv, hzero⟩ := runSteps_over_settled (P := fun r => r.2.2 = 0)
    (rest := .settled last :: rest) (cycled_pending _ _)
    (fun inp hinp u => cycled_delta_zero_of_no_sample (hquiet inp (List.mem_append_left _ hinp)).1) hcleared
  replace hzero : v.delta = 0 := hzero
  refine ⟨⟨_, step_of_settled hpending₁, ?responds, fun hkFirst => ?firstValue⟩,
    cycled last { v with pending := rest }, ?runs, ?lastValue⟩
  case responds => rw [cycled_out_of_getDelta hrFirst hcFirst]; rfl
  case firstValue =>
    rw [cycled_out_of_getDelta_alone hrFirst hkFirst hcFirst]
    exact sext16_toInt s.delta
  case runs =>
    rw [runSteps_of_settled (between.length + 1) hpending₁, hrun 1, runSteps_of_settled 0 hv]
    rfl
  case lastValue =>
    rw [cycled_out_of_getDelta_alone hrLast hkLast hcLast, hzero]
    rfl

end Sys2Proof.Proofs

namespace Sys2Proof.Proofs

open Sys2Proof.Machine

/-! ## BUTTON -/

/-- Settles O35: the response is the widened button level (`zext16_not`), and `respondOutputs` raises no error. -/
theorem buttonReadsTheLine : Obligations.ButtonReadsTheLine := by
  intro s
  rw [← zext16_not s.ports.btnN]
  rfl

end Sys2Proof.Proofs

namespace Sys2Proof.Proofs

open Sys2Proof.Machine
open Sys2Proof.Safety

/-! ## NOP and idle cycles (R80, R81) -/

/-- Settles O16: NOP writes nothing but the quiet outputs of its cycle. -/
theorem nopDoesNothing : Obligations.NopDoesNothing := fun _ => rfl

theorem isIdle_iff (inp : Inputs) :
    isIdle inp = true ↔ inp.rst = false ∧ inp.tick = false ∧ inp.cmd = 0b000 := by
  simp [isIdle, and_assoc]

/-- An idle cycle is a NOP on what it found: it leaves its ports and quiet outputs, and every other field as it was. -/
theorem cycled_of_idle {inp : Inputs} (h : isIdle inp = true) (s : State) :
    cycled inp s = { s with ports := inp, out := quietOutputs } := by
  obtain ⟨hr, hk, hc⟩ := (isIdle_iff inp).1 h
  have hnop : decodeH inp.hreq = .nop := (decodeH_hreq inp).trans (if_pos hc)
  have hcycle : cycle inp s = .next { s with ports := inp, out := quietOutputs } := by
    rw [cycle_of_no_rst inp s hr, sampled_of_no_tick hk, hnop, nopDoesNothing]
    rfl
  exact Host.Outcome.next.inj ((cycle_eq inp s).symm.trans hcycle)

/-- A run of at least one cycle does not read the ports and outputs of the cycle before it (log entry 8). -/
theorem runSteps_with_ports_out (m : Nat) (s : State) (p : Inputs) (o : Outputs) :
    runSteps (m + 1) { s with ports := p, out := o } = runSteps (m + 1) s :=
  congrArg (andThen · (runSteps m)) (step_with_ports_out s p o)

/-- A run over idle cycles ends as the run after them alone, by induction on the idle cycles: each leaves nothing but ports
and outputs, which the next cycle does not read. -/
theorem runSteps_over_idle {rest : List Stimulus} (m : Nat) : ∀ {idle : List Inputs} {s : State},
    s.pending = idle.map .settled ++ rest → (∀ inp ∈ idle, isIdle inp = true) →
    runSteps (idle.length + (m + 1)) s = runSteps (m + 1) { s with pending := rest }
  | [], s, hpending, _ => by
    replace hpending : s.pending = rest := hpending
    subst hpending
    exact congrArg (runSteps · s) (Nat.zero_add _)
  | inp :: idle, s, hpending, hidle => by
    replace hpending : s.pending = .settled inp :: (idle.map .settled ++ rest) := hpending
    obtain ⟨hidle₀, hidle⟩ := List.forall_mem_cons.1 hidle
    calc runSteps (idle.length + 1 + (m + 1)) s
        = runSteps (idle.length + (m + 1) + 1) s := by rw [Nat.add_right_comm]
      _ = runSteps (idle.length + (m + 1))
            { s with pending := idle.map .settled ++ rest, ports := inp, out := quietOutputs } := by
          rw [runSteps_of_settled _ hpending, cycled_of_idle hidle₀]
      _ = runSteps (m + 1) { s with pending := rest, ports := inp, out := quietOutputs } :=
          runSteps_over_idle m rfl hidle
      _ = runSteps (m + 1) { s with pending := rest } :=
          runSteps_with_ports_out m { s with pending := rest } inp quietOutputs

/-- Settles O17: `runSteps_over_idle` from the state before the idle cycles; the safe run of R95 is not needed for it. -/
theorem idleCyclesAreInvisible : Obligations.IdleCyclesAreInvisible :=
  fun _ _ _ m hidle _ => runSteps_over_idle m rfl hidle

end Sys2Proof.Proofs

namespace Sys2Proof.Proofs

open Sys2Proof.Machine
open Sys2Proof.Safety

/-! ## CmdError and its record (R82, R95) -/

/-- Settles O18: a reserved code writes the outputs of its cycle and the record, and no register. -/
theorem reservedCodesRaiseCmdError : Obligations.ReservedCodesRaiseCmdError := fun _ => ⟨rfl, rfl⟩

/-- A step writes the record exactly if its cycle raises a CmdError, and passes it on if not. -/
theorem step_fault {s t : State} (h : step s = .next t) :
    t.fault = if raises t.ports then some .cmdError else s.fault := by
  obtain ⟨u, hcycle, -, -, -, -, -, hfault⟩ := step_next_is_cycle h
  calc t.fault = (cycled t.ports u).fault := congrArg State.fault hcycle
    _ = if raises t.ports then some .cmdError else u.fault :=
      congrArg State.fault (cycled_with_fault t.ports u u.fault)
    _ = if raises t.ports then some .cmdError else s.fault := by rw [hfault]

/-- A step leaves nothing recorded exactly if it found nothing recorded and its cycle raises no CmdError. -/
theorem step_cmdErrorFree_iff {s t : State} (h : step s = .next t) :
    CmdErrorFree t ↔ CmdErrorFree s ∧ raises t.ports = false := by
  unfold CmdErrorFree
  rw [step_fault h]
  cases raises t.ports <;> simp

/-- A step keeps what is recorded: a CmdError is the only fault that a second one could put in its place. -/
theorem step_keeps_recorded {f : Fault} {s t : State} (h : step s = .next t) (hs : s.fault = some f) :
    t.fault = some f := by
  cases f
  rw [step_fault h, hs, ite_self]

/-- Settles O20: the step's law `step_cmdErrorFree_iff`, and a record kept by every step is kept by every run. -/
theorem cmdErrorRecordIsSticky : Obligations.CmdErrorRecordIsSticky :=
  ⟨fun _ _ => step_cmdErrorFree_iff, fun n s t _ => runSteps_keeps (fun _ _ => step_keeps_recorded) n s t⟩

/-- A run at whose end nothing is recorded is safe, by induction on its cycles: what is free after a cycle was free before it. -/
theorem safeRun_of_final : ∀ {n : Nat} {s t : State}, runSteps n s = .next t → CmdErrorFree t → SafeRun n s
  | 0, s, t, hrun, hfree => by
    cases hrun
    exact (safeRun_zero s).2 hfree
  | n + 1, s, t, hrun, hfree => by
    obtain ⟨u, hstep, hrest⟩ := runSteps_succ_inv hrun
    have hsafe : SafeRun n u := safeRun_of_final hrest hfree
    obtain ⟨hs, -⟩ := (step_cmdErrorFree_iff hstep).1 hsafe.start
    exact (safeRun_succ hstep).2 ⟨hs, hsafe⟩

/-- A run is safe exactly if it begins with nothing recorded and none of its cycles raises a CmdError. -/
theorem safeRun_iff_no_cycle_raises : ∀ {n : Nat} {s t : State}, runSteps n s = .next t →
    (SafeRun n s ↔ CmdErrorFree s ∧ HoldsAlong (fun _ u => raises u.ports = false) n s)
  | 0, s, _, _ => by simp [HoldsAlong]
  | n + 1, s, t, hrun => by
    obtain ⟨u, hstep, hrest⟩ := runSteps_succ_inv hrun
    rw [safeRun_succ hstep, safeRun_iff_no_cycle_raises hrest, step_cmdErrorFree_iff hstep,
      holdsAlong_succ hstep, and_assoc, and_self_left]

/-- Settles O54: a safe run ends with nothing recorded (`SafeRun.final`) and only a safe run does (`safeRun_of_final`); and
its cycles are those that raise nothing. -/
theorem safeRunIsReadOffTheRecord : Obligations.SafeRunIsReadOffTheRecord :=
  fun _ _ _ hrun =>
    ⟨⟨fun hsafe => hsafe.final hrun, safeRun_of_final hrun⟩, safeRun_iff_no_cycle_raises hrun⟩

end Sys2Proof.Proofs

namespace Sys2Proof.Proofs

open Sys2Proof.Machine
open Sys2Proof.Safety

/-! ## Reset and INIT (R96 to R102) -/

/-- A reset cycle seeds `last_state`, zeroes the counters and is quiet; of its inputs it reads the lines alone (R96, R97). -/
theorem cycled_of_rst_eq {inp : Inputs} (hr : inp.rst = true) (s : State) :
    cycled inp s = { s with
      lastState := lineState inp.a inp.b, position := 0, delta := 0, out := quietOutputs, ports := inp } := by
  rw [cycled_of_rst hr]
  rfl

/-- Settles O12: the step is the cycle on the inputs it takes, and `cycled_of_rst_eq` is its whole state. -/
theorem resetCycleSeedsAndZeroes : Obligations.ResetCycleSeedsAndZeroes := by
  intro s inp rest hpending hr
  refine ⟨lineState inp.a inp.b, lineState_bit_a _ _, lineState_bit_b _ _, ?_⟩
  rw [step_of_settled hpending, cycled_of_rst_eq hr]
  rfl

/-- Settles O13: the run goes on over the held cycles to the last one, which seeds and zeroes whatever they left; the safe run
of R95 is not needed for it. -/
theorem heldResetLeavesTheLastSeed : Obligations.HeldResetLeavesTheLastSeed := by
  intro s held last rest hpending _ hlast _
  have hpending' : s.pending = held.map .settled ++ .settled last :: rest := by simpa using hpending
  obtain ⟨v, hrun, hv, -⟩ :=
    runSteps_over_settled (P := fun _ => True) hpending' (fun _ _ _ => id) trivial
  refine ⟨cycled last { v with pending := rest }, ?runs, cycled_pending _ _, ?seeded⟩
  case runs =>
    rw [hrun 1, runSteps_of_settled 0 hv]
    rfl
  case seeded =>
    rw [cycled_of_rst_eq hlast]
    exact ⟨lineState_bit_a _ _, lineState_bit_b _ _, rfl, rfl⟩

/-- What a reset cycle or an INIT leaves in the registers and on the outputs is made of its lines alone (R55, R96). -/
theorem cycled_of_start {inp : Inputs} (h : inp.rst = true ∨ inp.cmd = 0b001) (s : State) :
    registers (cycled inp s) = (lineState inp.a inp.b, 0, 0) ∧ (cycled inp s).out = quietOutputs := by
  cases hr : inp.rst
  · have hc : inp.cmd = 1#3 := by simpa [hr] using h
    rw [cycled_of_no_rst hr]
    simp [registers, hosted, presentLines, hc]
  · rw [cycled_of_rst_eq hr]
    exact ⟨rfl, rfl⟩

/-- Settles O14: `cycled_of_start` names no field of the state before the cycle. -/
theorem resetAndInitForgetThePast : Obligations.ResetAndInitForgetThePast := by
  intro s u inp rest rest' hs hu hstart
  obtain ⟨hregS, houtS⟩ := cycled_of_start hstart { s with pending := rest }
  obtain ⟨hregU, houtU⟩ := cycled_of_start hstart { u with pending := rest' }
  exact ⟨_, _, step_of_settled hs, step_of_settled hu, hregS.trans hregU.symm, houtS.trans houtU.symm⟩

/-! ## The knob's place and the step it counts (R61, R103, R104) -/

/-- Four places are one turn of the lines. -/
theorem linesAtPlace_congr {m n : Int} (h : m % 4 = n % 4) : linesAtPlace m = linesAtPlace n := by
  simp only [linesAtPlace, h]

/-- The place after shows the line state after, along the +1 direction. -/
theorem linesAtPlace_add_one (m : Int) : linesAtPlace (m + 1) = lineAfter (linesAtPlace m) := by
  have hturn : ∀ r ∈ Finset.Ico (0 : Int) 4, linesAtPlace (r + 1) = lineAfter (linesAtPlace r) := by decide
  rw [linesAtPlace_congr (m := m + 1) (n := m % 4 + 1) (by omega),
    linesAtPlace_congr (m := m) (n := m % 4) (by omega)]
  exact hturn _ (Finset.mem_Ico.2 ⟨by omega, by omega⟩)

/-- Two places on, both lines have changed, and nothing is counted (R63). -/
theorem turnOf_lineAfter_lineAfter (l : LineState) : turnOf l (lineAfter (lineAfter l)) = 0 := by
  revert l; decide

/-- A motion of `k` places counts as its remainder modulo 4 does: none, one on, a double-bit change, one back (R104). -/
theorem turnOf_linesAtPlace (m k : Int) : turnOf (linesAtPlace m) (linesAtPlace (m + k)) =
    if k % 4 = 1 then 1 else if k % 4 = 3 then -1 else 0 := by
  have hmotion : k % 4 = 0 ∨ k % 4 = 1 ∨ k % 4 = 2 ∨ k % 4 = 3 := by omega
  rcases hmotion with h | h | h | h <;> simp only [h]
  · rw [linesAtPlace_congr (m := m + k) (n := m) (by omega), turnOf_self]; rfl
  · rw [linesAtPlace_congr (m := m + k) (n := m + 1) (by omega), linesAtPlace_add_one, turnOf_lineAfter]; rfl
  · rw [linesAtPlace_congr (m := m + k) (n := m + 1 + 1) (by omega), linesAtPlace_add_one,
      linesAtPlace_add_one, turnOf_lineAfter_lineAfter]; rfl
  · rw [linesAtPlace_congr (m := m) (n := m + k + 1) (by omega), linesAtPlace_add_one, turnOf_back,
      turnOf_lineAfter]; rfl

/-- A motion of at most one place is counted exactly (R103). -/
theorem turnOf_linesAtPlace_of_rate_kept {m p : Int} (h : (p - m).natAbs ≤ 1) :
    turnOf (linesAtPlace m) (linesAtPlace p) = p - m := by
  have hturn := turnOf_linesAtPlace m (p - m)
  rw [add_sub_cancel] at hturn
  rw [hturn]
  split_ifs <;> omega

/-- Settles O29: SAMPLE adds the rotation to `position`, and the rotation between two places is `turnOf_linesAtPlace`. -/
theorem motionIsSeenModuloFour : Obligations.MotionIsSeenModuloFour := by
  intro s m k hlast hpresent
  refine ⟨_, exec_sample_eq s, hpresent, ?_⟩
  rw [← turnOf_linesAtPlace m k, ← hlast, ← hpresent, ← stepPosition_eq_add]
  rfl

/-! ## SAMPLE beside NOP -/

/-- A SAMPLE beside NOP counts the rotation to the lines of its cycle and leaves them in `last_state` (R58). -/
theorem cycled_of_sample_nop {inp : Inputs} {l : LineState} (hr : inp.rst = false) (hk : inp.tick = true)
    (hc : inp.cmd = 0b000) (hl : lineState inp.a inp.b = l) (s : State) :
    cycled inp s = { s with
      lastState := l
      position := stepPosition s.position (turnOf s.lastState l)
      delta := stepDelta s.deltaMode s.delta (turnOf s.lastState l)
      ports := inp
      out := quietOutputs } := by
  have hpresent : presentLines (s.setPorts inp) = l := hl
  rw [cycled_of_no_rst hr, sampled_of_tick hk, hpresent]
  simp [hosted, hc, State.setLastState, State.setDelta, State.setPosition, State.setPorts]

/-! ## A bounce (R113) -/

/-- A step and its opposite leave `position`, at the ends of its range too (R65). -/
theorem stepPosition_back (p : Count) (k : Int) : stepPosition (stepPosition p k) (-k) = p := by
  rw [stepPosition_eq_add, stepPosition_eq_add, BitVec.ofInt_neg, add_neg_cancel_right]

/-- A step and its opposite leave `delta` in a WRAP build (R67). -/
theorem stepDelta_wrap_back (d : Delta) (k : Int) : stepDelta .wrap (stepDelta .wrap d k) (-k) = d := by
  rw [stepDelta_wrap_eq_add, stepDelta_wrap_eq_add, BitVec.ofInt_neg, add_neg_cancel_right]

/-- In a SATURATE build a step lost at a bound is not lost on the way back (R66). -/
theorem stepDelta_saturate_back (d : Delta) {k : Int} (hk : k = -1 ∨ k = 0 ∨ k = 1) :
    (stepDelta .saturate (stepDelta .saturate d k) (-k)).toInt = d.toInt +
      (if d.toInt = 127 ∧ k = 1 then -1 else if d.toInt = -128 ∧ k = -1 then 1 else 0) := by
  have hmin : -128 ≤ d.toInt := BitVec.le_toInt d
  have hmax : d.toInt < 128 := BitVec.toInt_lt
  rw [stepDelta_saturate_toInt, stepDelta_saturate_toInt]
  split_ifs <;> omega

/-- Settles O30: the second SAMPLE counts the opposite of the first (`turnOf_back`), and each counter has its law for a step
and its opposite; the safe run of R95 is not needed for it. -/
theorem bounceLeavesThePosition : Obligations.BounceLeavesThePosition := by
  intro s there back rest hpending hr₁ hk₁ hc₁ hr₂ hk₂ hc₂ ha hb _
  have hback : lineState back.a back.b = s.lastState := by rw [← ha, ← hb, lineState_of_bits]
  refine ⟨_, _, step_of_settled hpending, step_of_settled (cycled_pending _ _), ?_⟩
  rw [cycled_of_sample_nop hr₁ hk₁ hc₁ rfl, cycled_of_sample_nop hr₂ hk₂ hc₂ hback]
  simp only [turnOf_back s.lastState]
  refine ⟨trivial, stepPosition_back _ _, fun hmode => ?wrap, fun hmode => ?saturate⟩
  case wrap => rw [hmode, stepDelta_wrap_back]
  case saturate => rw [hmode, stepDelta_saturate_back _ (turnOf_cases _ _)]

/-! ## The knob followed (R103) -/

/-- A cycle that samples the knob at most one place on adds the motion to `position` (R65, R103). -/
theorem cycled_sampleAtPlace {m p : Int} {s : State} (hlast : s.lastState = linesAtPlace m)
    (hnear : (p - m).natAbs ≤ 1) :
    (cycled (sampleAtPlace p) s).lastState = linesAtPlace p ∧
      (cycled (sampleAtPlace p) s).position = s.position + BitVec.ofInt 16 (p - m) := by
  rw [cycled_of_sample_nop (inp := sampleAtPlace p) rfl rfl rfl (lineState_of_bits (linesAtPlace p)), hlast,
    turnOf_linesAtPlace_of_rate_kept hnear, stepPosition_eq_add]
  exact ⟨rfl, rfl⟩

/-- A run that samples the knob at places visited one by one ends with the last place in `last_state` and its distance from
the first in `position`, by induction on the places. -/
theorem runSteps_follows_the_knob : ∀ {places : List Int} {m : Int} {s : State},
    s.lastState = linesAtPlace m → RateKept m places →
    s.pending = places.map (fun p => .settled (sampleAtPlace p)) →
    ∃ t, runSteps places.length s = .next t ∧ t.lastState = linesAtPlace (places.getLastD m) ∧
      t.position = s.position + BitVec.ofInt 16 (places.getLastD m - m)
  | [], m, s, hlast, _, _ => ⟨s, rfl, hlast, by simp⟩
  | p :: places, m, s, hlast, ⟨hnear, hrate⟩, hpending => by
    replace hpending : s.pending =
        .settled (sampleAtPlace p) :: places.map (fun p => .settled (sampleAtPlace p)) := hpending
    obtain ⟨hlines, hposition⟩ := cycled_sampleAtPlace
      (s := { s with pending := places.map (fun p => .settled (sampleAtPlace p)) }) hlast hnear
    obtain ⟨t, hrun, hlinesEnd, hpositionEnd⟩ :=
      runSteps_follows_the_knob hlines hrate (cycled_pending _ _)
    refine ⟨t, (runSteps_of_settled _ hpending).trans hrun, by rwa [List.getLastD_cons], ?_⟩
    calc t.position
        = s.position + BitVec.ofInt 16 (p - m) + BitVec.ofInt 16 (places.getLastD p - p) := by
          rw [hpositionEnd, hposition]
      _ = s.position + BitVec.ofInt 16 ((p - m) + (places.getLastD p - p)) := by
          rw [BitVec.ofInt_add, BitVec.add_assoc]
      _ = s.position + BitVec.ofInt 16 ((p :: places).getLastD m - m) := by
          rw [sub_add_sub_cancel', List.getLastD_cons]

/-- Settles O52: `runSteps_follows_the_knob`; the safe run of R95 is not needed for it. -/
theorem positionFollowsTheKnob : Obligations.PositionFollowsTheKnob :=
  fun _ _ _ hlast hrate hpending _ => runSteps_follows_the_knob hlast hrate hpending

end Sys2Proof.Proofs

namespace Sys2Proof.Proofs

open Sys2Proof.Machine

/-! ## The end of the trace -/

/-- Settles O8: at the end of the trace a step is the free cycle (`step_of_trace_end`), and `cycle_eq` says that this is what
`cycle` answers. -/
theorem traceEndTakesFreeInputs : Obligations.TraceEndTakesFreeInputs := by
  intro s hend
  rw [step_of_trace_end hend, cycle_eq]

/-! ## The symmetries of the transition table (S1) -/

/-- Going back along a transition negates its entry. -/
theorem stepOf_back (l n : LineState) : stepOf n l = - stepOf l n := by
  rw [stepOf_eq_turnOf, stepOf_eq_turnOf, turnOf_back]

/-- Complementing both lines keeps the entry: the closed form compares lines with each other, never with a level. -/
theorem stepOf_complement (l n : LineState) : stepOf (~~~l) (~~~n) = stepOf l n := by
  simp [stepOf_closed_form]

/-- One place of rotation swaps the two channels. -/
theorem rotateLeft_one_eq_swap (l : LineState) :
    l.rotateLeft 1 = lineState (l.getLsbD 0) (l.getLsbD 1) := by
  revert l; decide

/-- Swapping the channels exchanges the two terms of the closed form. -/
theorem stepOf_swap (l n : LineState) :
    stepOf (l.rotateLeft 1) (n.rotateLeft 1) = - stepOf l n := by
  simp only [rotateLeft_one_eq_swap, stepOf_closed_form, lineState_bit_a, lineState_bit_b, neg_sub]

/-- Settles O22: the three symmetries, one lemma each. -/
theorem transitionTableSymmetries : Obligations.TransitionTableSymmetries :=
  fun l n => ⟨stepOf_back l n, stepOf_complement l n, stepOf_swap l n⟩

end Sys2Proof.Proofs
